-- ==== Sys2Proof/Word.lean ====
section
/-! DEFINITION. The word types: the block moves whole bytes only (20_memory.md R47, R50). -/

namespace Sys2Proof

/-- A byte, bit 7 the most significant (00_scope.md section 6). -/
abbrev Byte := BitVec 8

/-- The content of a transport error. The block never looks inside it (60_exceptions.md R165), so any plain
data does. DESIGN CHOICE, safe: log entry 4. -/
abbrev Info := Nat

end Sys2Proof
end

