-- ==== Sys2Proof/Config.lean ====
section
/-! DEFINITION. What is fixed for the machine: the hardwired constants (00_scope.md R8, 10_state.md R30) as one
record, the two parameters the spec leaves open, and the free value. -/

namespace Sys2Proof

/-- The four rectangles the raster is cut into (20_memory.md R41). -/
inductive Quadrant where
  | topLeft | topRight | bottomLeft | bottomRight
deriving DecidableEq, Repr

/-- The two binary layers of the panel's three-level image (00_scope.md section 7). -/
inductive Plane where
  | msb | lsb
deriving DecidableEq, Repr

/-- The constants of the block, in one record (00_scope.md R8). -/
structure Config where
  panelW        : Nat
  panelH        : Nat
  rowSplit      : Nat
  colSplit      : Nat
  leftW         : Nat
  rightW        : Nat
  quadH         : Nat
  tBlack        : Nat
  tWhite        : Nat
  cellMax       : Nat
  frameBytes    : Nat
  leftSegBytes  : Nat
  rightSegBytes : Nat
  segOrder      : List (Quadrant × Plane)
  byteReady     : Byte
  byteSleep     : Byte
  baud          : Nat
  timeout       : Option Nat
deriving DecidableEq, Repr

/-- The values of 00_scope.md R8. `segOrder` is the order of 20_memory.md R42 (90_conflicts.md C1, log entry 3);
`byteReady` and `byteSleep` are the characters r and s (30_encoding.md R64, log entry 2); no read times out. -/
def cfg : Config where
  panelW        := 1304
  panelH        := 984
  rowSplit      := 492
  colSplit      := 648
  leftW         := 648
  rightW        := 656
  quadH         := 492
  tBlack        := 32
  tWhite        := 222
  cellMax       := 255
  frameBytes    := 320784
  leftSegBytes  := 39852
  rightSegBytes := 40344
  segOrder      :=
    [(.bottomRight, .msb), (.bottomRight, .lsb), (.bottomLeft, .msb), (.bottomLeft, .lsb),
     (.topLeft, .msb), (.topLeft, .lsb), (.topRight, .msb), (.topRight, .lsb)]
  byteReady     := 0x72#8
  byteSleep     := 0x73#8
  baud          := 2000000
  timeout       := none

/-- The serial character format. The spec leaves it OPEN (00_scope.md R9, 92_eei_decisions.md D23). -/
structure UartFrame where
  dataBits    : Nat
  parity      : Nat
  stopBits    : Nat
  lsbFirst    : Bool
  flowControl : Nat
deriving DecidableEq, Repr, Inhabited

/-- The four pieces of state the host reads by name (10_state.md R31). -/
inductive HostRegister where
  | linkState | linkFault | fbValid | phase
deriving DecidableEq, Repr

/-- The open parameter UART_FRAME (00_scope.md R9): no body, and nothing reads it. Log entry 18. -/
opaque Config.uartFrame : UartFrame

/-- The open parameter REG_MAP (00_scope.md R9, 10_state.md R31): no body, and nothing reads it. Log entry 18. -/
opaque Config.regMap : HostRegister → Option Nat

/-- FREE VALUE: the info of the error a closed transport returns (41_link_protocol.md R112, R113: "info opaque"). No
body; the step applies it to the counter `State.freeCtr`. Log entry 5. -/
opaque Config.freeInfo : Nat → Info

end Sys2Proof
end

