-- ==== Sys2Proof/Machine/State.lean ====
section
/-! DEFINITION. The state of the machine as plain data: the tuple of 10_state.md R20, and the model's own fields for
the host's port, the environment's schedule and the free values (INVENTORY.md, State). -/

namespace Sys2Proof.Machine

/-- LINK_STATE (10_state.md R25). -/
inductive LinkState where
  | closed | awake | transmitting
deriving DecidableEq, Repr

/-- LINK_FAULT (10_state.md R26). -/
inductive LinkFault where
  | none | linkInitError | frameNotAcknowledged | sleepNotAcknowledged | transportError
deriving DecidableEq, Repr

/-- PHASE, the link engine's position inside a command: what plays the program counter's part (10_state.md R27). -/
inductive Phase where
  | idle | openWait | txCmd | txData | txAck | clCmd | clAck
deriving DecidableEq, Repr

/-- What a command completes with (30_encoding.md R77). Only TransportError carries data (60_exceptions.md R160). -/
inductive Result where
  | ok
  | invalidFrame
  | linkInitError
  | frameNotAcknowledged
  | sleepNotAcknowledged
  | transportError (info : Info)
  | commandRefused
deriving DecidableEq, Repr

/-- The errors that run the failure sequence of 60_exceptions.md R170. -/
inductive LinkError where
  | linkInit
  | frameNotAcknowledged
  | sleepNotAcknowledged
  | transport (info : Info)
deriving DecidableEq, Repr

/-- RAS as it is presented at the port (10_state.md R23, 92_eei_decisions.md D6): a descriptor and a cell function into
the integers. The cell function is plain data: `base` for every cell, but for the cells listed with a value of their
own. DESIGN CHOICE, safe: log entry 7. -/
structure Raster where
  rows  : Nat
  cols  : Nat
  base  : Int
  cells : List ((Nat × Nat) × Int)
deriving DecidableEq, Repr

/-- FB: offsets and bytes, offsets strictly rising. An offset that is not listed holds no value (10_state.md R24). -/
abbrev Memory := List Host.Cell

/-- The two plane bytes of the group of 8 cells being packed and the lane the next cell goes to: the variables b and k
of pack_byte, for both planes at once (40_frame_encoder.md R95). -/
structure Lanes where
  lane : BitVec 3
  msb  : Byte
  lsb  : Byte
deriving DecidableEq, Repr

/-- The environment's decision that the next LinkRead or LinkWrite fails (41_link_protocol.md R115 c): the error's
`info`, and how many bytes a write sends before it fails (R113 b). -/
structure Failure where
  info : Info
  sent : Nat
deriving DecidableEq, Repr

/-- What LinkRead can do (41_link_protocol.md R112): its three outcomes. -/
inductive ReadOutcome where
  | byte (b : Byte)
  | ioError (info : Info)
  | blocked
deriving DecidableEq, Repr

/-- What LinkWrite can do (41_link_protocol.md R113): its two outcomes. -/
inductive WriteOutcome where
  | ok
  | ioError (info : Info)
deriving DecidableEq, Repr

/-- The code standing at the block's port: a command code from the host (30_encoding.md R76), or a pixel code inside
the encoder (30_encoding.md R61). No host step presents a pixel code: log entry 10. -/
inductive Port where
  | cmd (op : BitVec 3)
  | pix (code : BitVec 2)
deriving DecidableEq, Repr

/-- A step of the environment (41_link_protocol.md R115), or of the host at the command interface (00_scope.md R6). -/
inductive EnvStep where
  /-- DevSend(b): the device appends a byte to RXQ (R115 a). -/
  | devSend (b : Byte)
  /-- The device consumes bytes of TXH, which changes no state the block can see (R115 b). -/
  | devTake
  /-- Fail: the next LinkRead or LinkWrite returns IoError (R115 c). -/
  | fail (f : Failure)
  /-- OobClose: the host closes the transport out of band (R115 d). -/
  | oobClose
  /-- Attach(t): the host attaches a fresh open transport that already holds some bytes (R115 e). -/
  | attach (rx : List Byte)
  /-- The host presents a raster (10_state.md R23). -/
  | present (ras : Raster)
  /-- The host issues a command (30_encoding.md R76). -/
  | issue (op : BitVec 3)
deriving DecidableEq, Repr

/-- Who moves: the environment with one of its steps, or the block with one micro-step. -/
inductive Turn where
  | env (e : EnvStep)
  | block
deriving DecidableEq, Repr

/-- The state. The first ten fields are the tuple of 10_state.md R20, in its order; the rest are the model's own. -/
structure State where
  /-- RAS, the raster presented (R23). -/
  ras       : Raster
  /-- FB, the frame buffer (R24). -/
  fb        : Memory
  /-- FB_VALID (R24). -/
  fbValid   : Bool
  /-- LINK_STATE (R25). -/
  linkState : LinkState
  /-- LINK_FAULT (R26). -/
  linkFault : LinkFault
  /-- PHASE (R27). -/
  phase     : Phase
  /-- T_OPEN (R28). -/
  tOpen     : Bool
  /-- RXQ, oldest first (R29). -/
  rxq       : List Byte
  /-- TXH, oldest first (R28). -/
  txh       : List Byte
  /-- TCLOSES (R28). -/
  tcloses   : Nat
  /-- The code presented and not yet taken; none while the host presents nothing. Log entry 6. -/
  port      : Option Port
  /-- Every result delivered to the host, oldest first (10_state.md R22). Log entry 6. -/
  results   : List Result
  /-- The plane bytes being assembled. Log entry 10. -/
  lanes     : Lanes
  /-- The pending failure of a transport primitive. Log entry 15. -/
  failNext  : Option Failure
  /-- How many free values have been used. Log entry 5. -/
  freeCtr   : Nat
  /-- The turns to come; once it is empty the environment is silent and the block moves. Log entry 1. -/
  sched     : List Turn
deriving DecidableEq, Repr

/-- Why the machine stops with a fault. -/
inductive Fault where
  /-- Raised by the meaning of a token or a command executed in a PHASE that does not read it: 41_link_protocol.md R132
  "A pair of state and event not listed has no step". Safe: the machine stops, and `step` never fetches such a pair. -/
  | noStep
  /-- Raised by the fetch of FRAME when a byte of FB holds no value (10_state.md R24). Safe: the machine stops. -/
  | unwrittenFrame
deriving DecidableEq, Repr

/-- Why an instruction is refused. -/
inductive Refusal where
  /-- Raised by an arm of exec whose instruction has no meaning yet. Safe. -/
  | notModelled (mnemonic : String)
  /-- Raised by PIX_RESERVED_01: "impossible input", to which no meaning may be assigned (30_encoding.md R70). Safe. -/
  | pixelReserved
  /-- Raised by a FRAME term that is not FRAME_BYTES bytes, which is no instruction (30_encoding.md R63). Safe. -/
  | malformedFrame
deriving DecidableEq, Repr

/-- The machine right after reset (10_state.md R34, 70_reset_and_hazards.md R191). RAS, T_OPEN and RXQ, which R34 leaves
to the environment, and the model's own fields: DESIGN CHOICE, log entries 1, 5, 6, 7, 8, 10, 15. -/
def State.reset : State where
  ras       := { rows := 0, cols := 0, base := 0, cells := [] }
  fb        := []
  fbValid   := false
  linkState := .closed
  linkFault := .none
  phase     := .idle
  tOpen     := false
  rxq       := []
  txh       := []
  tcloses   := 0
  port      := none
  results   := []
  lanes     := { lane := 0#3, msb := 0#8, lsb := 0#8 }
  failNext  := none
  freeCtr   := 0
  sched     := []

end Sys2Proof.Machine
end

