-- ==== Sys2Proof/Syntax.lean ====
section
/-! DEFINITION. The instructions: one constructor per row of spec/opcode_table.json, in its order. An "instruction" of
this hardware is a wire token, a pixel code or a command code (00_scope.md section 4, 30_encoding.md R82). -/

namespace Sys2Proof

/-- The 18 rows of the opcode table. A wire token stands for the link engine's micro-step that writes or reads it; a
command code has its operand beside it at the port (30_encoding.md R69, R76), not in its word. -/
inductive Instr where
  /-- RDY, read by OPEN at PHASE OpenWait (41_link_protocol.md R119). -/
  | rdy
  /-- BEGIN, written by TRANSMIT at PHASE TxCmd (41_link_protocol.md R122). -/
  | beginTx
  /-- FRAME, the payload bytes, written by TRANSMIT at PHASE TxData (41_link_protocol.md R123). -/
  | frame (payload : List Byte)
  /-- FACK, read by TRANSMIT at PHASE TxAck (41_link_protocol.md R124). -/
  | fack
  /-- SLEEP, written by CLOSE at PHASE ClCmd (41_link_protocol.md R128). -/
  | sleep
  /-- SACK, read by CLOSE at PHASE ClAck (41_link_protocol.md R129). -/
  | sack
  /-- Pixel code 00 (30_encoding.md R61, 40_frame_encoder.md R94). -/
  | black
  /-- Pixel code 01, unused and unreachable (30_encoding.md R70). -/
  | pixReserved01
  /-- Pixel code 10 (30_encoding.md R61, 40_frame_encoder.md R94). -/
  | white
  /-- Pixel code 11 (30_encoding.md R61, 40_frame_encoder.md R94). -/
  | red
  /-- Command code 000 (30_encoding.md R78). -/
  | cmdReserved000
  /-- Command code 001 (40_frame_encoder.md R97). -/
  | pack
  /-- Command code 010, OPEN (41_link_protocol.md R118). -/
  | openLink
  /-- Command code 011 (41_link_protocol.md R121). -/
  | transmit
  /-- Command code 100, CLOSE (41_link_protocol.md R126). -/
  | closeLink
  /-- Command code 101 (30_encoding.md R78). -/
  | cmdReserved101
  /-- Command code 110 (30_encoding.md R78). -/
  | cmdReserved110
  /-- Command code 111 (30_encoding.md R78). -/
  | cmdReserved111
deriving DecidableEq, Repr

end Sys2Proof
end

