-- ==== Sys2Proof/WellFormed.lean ====
section
/-! DEFINITION. Which instruction terms are instructions of the hardware. Only FRAME has an operand in its encoding. -/

namespace Sys2Proof

/-- FRAME is exactly FRAME_BYTES bytes, each of any value (30_encoding.md R63, R68); no other row has an operand field. -/
def Instr.wf : Instr → Bool
  | .frame payload => payload.length == cfg.frameBytes
  | .rdy => true
  | .beginTx => true
  | .fack => true
  | .sleep => true
  | .sack => true
  | .black => true
  | .pixReserved01 => true
  | .white => true
  | .red => true
  | .cmdReserved000 => true
  | .pack => true
  | .openLink => true
  | .transmit => true
  | .closeLink => true
  | .cmdReserved101 => true
  | .cmdReserved110 => true
  | .cmdReserved111 => true

end Sys2Proof
end

