-- ==== Sys2Proof/Decode.lean ====
section
/-! DEFINITION. Decoding and encoding. What a byte means is fixed by its direction and by the PHASE in which it is
written or read, never by its value alone (30_encoding.md R65); a command or pixel code is read at its own port. -/

namespace Sys2Proof

open Machine (Phase)

/-- A written instruction on the interface it belongs to: a pixel code, a command code, or bytes received from the
device or sent to it in a PHASE (30_encoding.md R60, R65). -/
inductive Code where
  | pix (code : BitVec 2)
  | cmd (op : BitVec 3)
  | rx (at_ : Phase) (bytes : List Byte)
  | tx (at_ : Phase) (bytes : List Byte)
deriving DecidableEq, Repr

/-- Why bits are no instruction. -/
inductive DecodeError where
  /-- The bytes end before the token does. -/
  | short
  /-- A byte other than the one token of this PHASE and direction (30_encoding.md R71). -/
  | illegalByte (b : Byte)
  /-- No token stands in this PHASE in this direction (30_encoding.md R67). -/
  | noTokenHere
deriving DecidableEq, Repr

/-- The pixel codes (30_encoding.md R61, R70). -/
def decodePix (code : BitVec 2) : Instr :=
  if code = 0b00#2 then .black
  else if code = 0b01#2 then .pixReserved01
  else if code = 0b10#2 then .white
  else .red

/-- The command codes `op[2:0]` (30_encoding.md R76). -/
def decodeCmd (op : BitVec 3) : Instr :=
  if op = 0b000#3 then .cmdReserved000
  else if op = 0b001#3 then .pack
  else if op = 0b010#3 then .openLink
  else if op = 0b011#3 then .transmit
  else if op = 0b100#3 then .closeLink
  else if op = 0b101#3 then .cmdReserved101
  else if op = 0b110#3 then .cmdReserved110
  else .cmdReserved111

/-- One byte against the one token it may be. -/
def decodeToken (expected : Byte) (i : Instr) (bytes : List Byte) : Except DecodeError (Instr × List Byte) :=
  match bytes with
  | [] => .error .short
  | b :: rest => if b = expected then .ok (i, rest) else .error (.illegalByte b)

/-- A received byte: an equality test against one constant at each of three PHASEs (30_encoding.md R67). -/
def decodeRx (p : Phase) (bytes : List Byte) : Except DecodeError (Instr × List Byte) :=
  match p with
  | .openWait => decodeToken cfg.byteReady .rdy bytes
  | .txAck => decodeToken cfg.byteReady .fack bytes
  | .clAck => decodeToken cfg.byteSleep .sack bytes
  | .idle => .error .noTokenHere
  | .txCmd => .error .noTokenHere
  | .txData => .error .noTokenHere
  | .clCmd => .error .noTokenHere

/-- A sent token: BEGIN, FRAME_BYTES raw payload bytes, SLEEP (30_encoding.md R65, R68). -/
def decodeTx (p : Phase) (bytes : List Byte) : Except DecodeError (Instr × List Byte) :=
  match p with
  | .txCmd => decodeToken cfg.byteReady .beginTx bytes
  | .txData =>
    if (bytes.take cfg.frameBytes).length = cfg.frameBytes then
      .ok (.frame (bytes.take cfg.frameBytes), bytes.drop cfg.frameBytes)
    else .error .short
  | .clCmd => decodeToken cfg.byteSleep .sleep bytes
  | .idle => .error .noTokenHere
  | .openWait => .error .noTokenHere
  | .txAck => .error .noTokenHere
  | .clAck => .error .noTokenHere

/-- The instruction a code stands for, and the bytes of the stream that follow it. -/
def decode : Code → Except DecodeError (Instr × List Byte)
  | .pix code => .ok (decodePix code, [])
  | .cmd op => .ok (decodeCmd op, [])
  | .rx p bytes => decodeRx p bytes
  | .tx p bytes => decodeTx p bytes

/-- The words of an instruction, from the encodings of 30_encoding.md R61, R65, R76 and the opcode table. -/
def encode : Instr → Code
  | .rdy => .rx .openWait [cfg.byteReady]
  | .beginTx => .tx .txCmd [cfg.byteReady]
  | .frame payload => .tx .txData payload
  | .fack => .rx .txAck [cfg.byteReady]
  | .sleep => .tx .clCmd [cfg.byteSleep]
  | .sack => .rx .clAck [cfg.byteSleep]
  | .black => .pix 0b00#2
  | .pixReserved01 => .pix 0b01#2
  | .white => .pix 0b10#2
  | .red => .pix 0b11#2
  | .cmdReserved000 => .cmd 0b000#3
  | .pack => .cmd 0b001#3
  | .openLink => .cmd 0b010#3
  | .transmit => .cmd 0b011#3
  | .closeLink => .cmd 0b100#3
  | .cmdReserved101 => .cmd 0b101#3
  | .cmdReserved110 => .cmd 0b110#3
  | .cmdReserved111 => .cmd 0b111#3

/-- A code with further bytes of its stream behind it; a port holds one code and no stream. -/
def Code.followedBy (c : Code) (rest : List Byte) : Code :=
  match c with
  | .pix code => .pix code
  | .cmd op => .cmd op
  | .rx p bytes => .rx p (bytes ++ rest)
  | .tx p bytes => .tx p (bytes ++ rest)

/-- How many bits a code holds. -/
def Code.bits : Code → Nat
  | .pix _ => 2
  | .cmd _ => 3
  | .rx _ bytes => 8 * bytes.length
  | .tx _ bytes => 8 * bytes.length

/-- The width the opcode table gives an instruction's row, in bits. -/
def tableWidth : Instr → Nat
  | .rdy => 8
  | .beginTx => 8
  | .frame _ => 2566272
  | .fack => 8
  | .sleep => 8
  | .sack => 8
  | .black => 2
  | .pixReserved01 => 2
  | .white => 2
  | .red => 2
  | .cmdReserved000 => 3
  | .pack => 3
  | .openLink => 3
  | .transmit => 3
  | .closeLink => 3
  | .cmdReserved101 => 3
  | .cmdReserved110 => 3
  | .cmdReserved111 => 3

/-- A message from the host's side to the device (30_encoding.md R66). -/
inductive HostMessage where
  | frame (payload : List Byte)
  | sleep
deriving DecidableEq, Repr

/-- The bytes of a message: BEGIN and then the frame, or SLEEP alone (30_encoding.md R66). -/
def encodeMessage : HostMessage → List Byte
  | .frame payload => cfg.byteReady :: payload
  | .sleep => [cfg.byteSleep]

/-- A message read off the wire: its first byte fixes its length, and payload bytes are data whatever their value
(30_encoding.md R68, 70_reset_and_hazards.md R205). -/
def decodeMessage (bytes : List Byte) : Except DecodeError (HostMessage × List Byte) :=
  match decodeTx .txCmd bytes with
  | .ok (_, rest) =>
    match decodeTx .txData rest with
    | .ok (.frame payload, rest') => .ok (.frame payload, rest')
    | .ok (_, _) => .error .noTokenHere
    | .error e => .error e
  | .error _ =>
    match decodeTx .clCmd bytes with
    | .ok (_, rest) => .ok (.sleep, rest)
    | .error e => .error e

/-- Byte number k of a word whose first byte is its least significant. -/
def wordByte (w k : Nat) : Byte := BitVec.ofNat 8 (w >>> (8 * k))

/-- The instruction the decoder reads from an opcode-table word. A code of 2 or 3 bits is one of the pixel or command
codes; in a whole byte the values 0 to 7 are command codes (the pixel codes share them), 0x72 is the first row with
that byte, RDY, and 0x73 the first with that byte, SLEEP, since the word carries neither direction nor PHASE
(30_encoding.md R65). A FRAME word has all its bytes, so `decodeTx`, which tests for them, answers the same: the law
`decodeTx_frameWord`. DESIGN CHOICE: log entry 16. -/
def decodeTableWord (nbits w : Nat) : Option Instr :=
  if nbits = 2 then (if w < 4 then some (decodePix (BitVec.ofNat 2 w)) else none)
  else if nbits = 3 then (if w < 8 then some (decodeCmd (BitVec.ofNat 3 w)) else none)
  else if nbits = 8 then
    if w < 8 then some (decodeCmd (BitVec.ofNat 3 w))
    else
      match decodeRx .openWait [wordByte w 0] with
      | .ok (i, _) => some i
      | .error _ =>
        match decodeTx .clCmd [wordByte w 0] with
        | .ok (i, _) => some i
        | .error _ => none
  else if nbits = 8 * cfg.frameBytes then some (.frame ((List.range cfg.frameBytes).map (wordByte w)))
  else none

end Sys2Proof
end

