-- ==== Sys2Proof/Machine/Flags.lean ====
section
/-! DEFINITION. The status the host reads, and its codes. The block has no condition codes and no command writes a flag
as a side effect (10_state.md R22); its whole status is FB_VALID, LINK_STATE, LINK_FAULT and PHASE. -/

namespace Sys2Proof.Machine

/-- The 2-bit code of LINK_STATE; 3 is never produced (10_state.md R25). -/
def linkStateCode : LinkState → BitVec 2
  | .closed => 0#2
  | .awake => 1#2
  | .transmitting => 2#2

/-- The LINK_STATE a code stands for (10_state.md R25). -/
def linkStateOf (c : BitVec 2) : Option LinkState :=
  if c = 0#2 then some .closed
  else if c = 1#2 then some .awake
  else if c = 2#2 then some .transmitting
  else none

/-- The 3-bit code of LINK_FAULT: the code of the result kind (10_state.md R26). -/
def linkFaultCode : LinkFault → BitVec 3
  | .none => 0#3
  | .linkInitError => 2#3
  | .frameNotAcknowledged => 3#3
  | .sleepNotAcknowledged => 4#3
  | .transportError => 5#3

/-- The LINK_FAULT a code stands for: it never holds 1 or 6 (10_state.md R26). -/
def linkFaultOf (c : BitVec 3) : Option LinkFault :=
  if c = 0#3 then some .none
  else if c = 2#3 then some .linkInitError
  else if c = 3#3 then some .frameNotAcknowledged
  else if c = 4#3 then some .sleepNotAcknowledged
  else if c = 5#3 then some .transportError
  else none

/-- The 3-bit code of PHASE; 7 is never produced (10_state.md R27). -/
def phaseCode : Phase → BitVec 3
  | .idle => 0#3
  | .openWait => 1#3
  | .txCmd => 2#3
  | .txData => 3#3
  | .txAck => 4#3
  | .clCmd => 5#3
  | .clAck => 6#3

/-- The PHASE a code stands for (10_state.md R27). -/
def phaseOf (c : BitVec 3) : Option Phase :=
  if c = 0#3 then some .idle
  else if c = 1#3 then some .openWait
  else if c = 2#3 then some .txCmd
  else if c = 3#3 then some .txData
  else if c = 4#3 then some .txAck
  else if c = 5#3 then some .clCmd
  else if c = 6#3 then some .clAck
  else none

/-- The 3-bit result code RES; 7 is never produced (30_encoding.md R77). -/
def resultCode : Result → BitVec 3
  | .ok => 0#3
  | .invalidFrame => 1#3
  | .linkInitError => 2#3
  | .frameNotAcknowledged => 3#3
  | .sleepNotAcknowledged => 4#3
  | .transportError _ => 5#3
  | .commandRefused => 6#3

/-- The result a code stands for, with the info that came beside it, which only TransportError has (30_encoding.md
R77). -/
def resultOf (c : BitVec 3) (info : Info) : Option Result :=
  if c = 0#3 then some .ok
  else if c = 1#3 then some .invalidFrame
  else if c = 2#3 then some .linkInitError
  else if c = 3#3 then some .frameNotAcknowledged
  else if c = 4#3 then some .sleepNotAcknowledged
  else if c = 5#3 then some (.transportError info)
  else if c = 6#3 then some .commandRefused
  else none

/-- The result a link error is delivered as; TransportError hands its info on unchanged (60_exceptions.md R165). -/
def linkErrorResult : LinkError → Result
  | .linkInit => .linkInitError
  | .frameNotAcknowledged => .frameNotAcknowledged
  | .sleepNotAcknowledged => .sleepNotAcknowledged
  | .transport info => .transportError info

/-- What LINK_FAULT records of a link error: its kind only (60_exceptions.md R160, R170). -/
def linkErrorFault : LinkError → LinkFault
  | .linkInit => .linkInitError
  | .frameNotAcknowledged => .frameNotAcknowledged
  | .sleepNotAcknowledged => .sleepNotAcknowledged
  | .transport _ => .transportError

/-- The value the host reads for each of the four pieces of status (10_state.md R31). -/
def hostRead (r : HostRegister) (s : State) : Nat :=
  match r with
  | .linkState => (linkStateCode s.linkState).toNat
  | .linkFault => (linkFaultCode s.linkFault).toNat
  | .fbValid => if s.fbValid then 1 else 0
  | .phase => (phaseCode s.phase).toNat

end Sys2Proof.Machine
end

