-- ==== Sys2Proof/Machine/Operands.lean ====
section
/-! DEFINITION. Operand assembly (30_encoding.md R69): the raster's cells and their validation, the quantizer and the
plane bits, the quadrants and the address map of the frame buffer, the byte packer, and the reference inverse. -/

namespace Sys2Proof.Machine

/-- `RAS[r][c]` (10_state.md R23). -/
def Raster.cell (ras : Raster) (r c : Nat) : Int :=
  (ras.cells.lookup (r, c)).getD ras.base

/-- A cell value the encoder accepts: 0 to CELL_MAX (40_frame_encoder.md R98). -/
def inCellRange (v : Int) : Bool :=
  decide (0 ≤ v) && decide (v ≤ (cfg.cellMax : Int))

/-- Every cell of the grid is in range (40_frame_encoder.md R98): each listed cell inside the grid is, and the base is
unless every cell of the grid is listed. -/
def Raster.cellsInRange (ras : Raster) : Bool :=
  ras.cells.all (fun e =>
    !(decide (e.1.1 < ras.rows) && decide (e.1.2 < ras.cols)) || inCellRange (ras.cell e.1.1 e.1.2))
  && (inCellRange ras.base ||
    (List.range ras.rows).all (fun r => (List.range ras.cols).all (fun c => (ras.cells.lookup (r, c)).isSome)))

/-- `valid(RAS)`: dimensions first, then the cells' domain (40_frame_encoder.md R98, 92_eei_decisions.md D29). -/
def Raster.valid (ras : Raster) : Bool :=
  (ras.rows == cfg.panelH && ras.cols == cfg.panelW) && ras.cellsInRange

/-- A cell as the 8-bit unsigned value it is after validation (10_state.md R23). -/
def Raster.cell8 (ras : Raster) (r c : Nat) : Byte :=
  BitVec.ofInt 8 (ras.cell r c)

/-- The three ink levels (00_scope.md section 7). -/
inductive Level where
  | black | white | red
deriving DecidableEq, Repr

/-- `quantize(i)`: unsigned, strict comparisons (40_frame_encoder.md R92, R93, R103). -/
def quantize (i : Byte) : Level :=
  if i.toNat < cfg.tBlack then .black
  else if cfg.tWhite < i.toNat then .white
  else .red

/-- The pixel code of a level, bit 1 the MSB plane and bit 0 the LSB plane (30_encoding.md R61). -/
def levelCode : Level → BitVec 2
  | .black => 0b00#2
  | .white => 0b10#2
  | .red => 0b11#2

/-- The level of a pixel code; 01 has none (30_encoding.md R61, R70). -/
def levelOf (code : BitVec 2) : Option Level :=
  if code = 0b00#2 then some .black
  else if code = 0b10#2 then some .white
  else if code = 0b11#2 then some .red
  else none

/-- The bit of a level in a plane. -/
def levelBit (p : Plane) (v : Level) : Bool :=
  match p with
  | .msb => (levelCode v).getLsbD 1
  | .lsb => (levelCode v).getLsbD 0

/-- `msb(i)` and `lsb(i)` (40_frame_encoder.md R94). -/
def planeBit (p : Plane) (i : Byte) : Bool :=
  levelBit p (quantize i)

/-- `quadrant(r, c)` (20_memory.md R41). -/
def quadrantOf (r c : Nat) : Quadrant :=
  if r < cfg.rowSplit then (if c < cfg.colSplit then .topLeft else .topRight)
  else (if c < cfg.colSplit then .bottomLeft else .bottomRight)

/-- The first row r0 of a quadrant (20_memory.md R41). -/
def quadRow : Quadrant → Nat
  | .topLeft => 0
  | .topRight => 0
  | .bottomLeft => cfg.rowSplit
  | .bottomRight => cfg.rowSplit

/-- The first column c0 of a quadrant (20_memory.md R41). -/
def quadCol : Quadrant → Nat
  | .topLeft => 0
  | .topRight => cfg.colSplit
  | .bottomLeft => 0
  | .bottomRight => cfg.colSplit

/-- The width QW of a quadrant (20_memory.md R41). -/
def quadWidth : Quadrant → Nat
  | .topLeft => cfg.leftW
  | .topRight => cfg.rightW
  | .bottomLeft => cfg.leftW
  | .bottomRight => cfg.rightW

/-- BPR, the bytes in one row of a segment of the quadrant (20_memory.md R45). -/
def bytesPerRow (q : Quadrant) : Nat := quadWidth q / 8

/-- The bytes in a segment of the quadrant (20_memory.md R41). -/
def segLength (q : Quadrant) : Nat := cfg.quadH * bytesPerRow q

/-- The offset of the segment of q and p in an order of segments: the lengths before it added up. -/
def segBaseIn (order : List (Quadrant × Plane)) (q : Quadrant) (p : Plane) : Nat :=
  match order with
  | [] => 0
  | s :: rest => if s = (q, p) then 0 else segLength s.1 + segBaseIn rest q p

/-- `seg_base(q, p)`, computed from SEG_ORDER (20_memory.md R44). -/
def segBase (q : Quadrant) (p : Plane) : Nat := segBaseIn cfg.segOrder q p

/-- The two places of a cell in FB: the offset of its byte in each plane, and its bit. -/
structure Place where
  msbOffset : Nat
  lsbOffset : Nat
  bit       : Nat
deriving DecidableEq, Repr

/-- `locate(r, c)` (20_memory.md R46). -/
def locate (r c : Nat) : Place :=
  let q := quadrantOf r c
  let n := (r - quadRow q) * bytesPerRow q + (c - quadCol q) / 8
  { msbOffset := segBase q .msb + n
    lsbOffset := segBase q .lsb + n
    bit := 7 - (c - quadCol q) % 8 }

/-- The lanes before the first cell of a group. -/
def emptyLanes : Lanes := { lane := 0#3, msb := 0#8, lsb := 0#8 }

/-- One pass of pack_byte's loop for both planes: the level's two bits enter lane k at bit 7-k, and k advances; a byte
begins from 0 at lane 0 (40_frame_encoder.md R95, 30_encoding.md R62). -/
def pushLevel (a : Lanes) (v : Level) : Lanes :=
  let weight := 2 ^ (7 - a.lane.toNat)
  let start (b : Byte) : Byte := if a.lane = 0#3 then 0#8 else b
  { lane := a.lane + 1#3
    msb := start a.msb + BitVec.ofNat 8 ((levelBit .msb v).toNat * weight)
    lsb := start a.lsb + BitVec.ofNat 8 ((levelBit .lsb v).toNat * weight) }

/-- The byte of a plane in the lanes. -/
def laneByte (p : Plane) (a : Lanes) : Byte :=
  match p with
  | .msb => a.msb
  | .lsb => a.lsb

/-- `pack_byte(p, r, c)`: the 8 cells from (r, c) on, leftmost in bit 7 (40_frame_encoder.md R95). -/
def packByte (cell : Nat → Nat → Byte) (p : Plane) (r c : Nat) : Byte :=
  laneByte p ((List.range 8).foldl (fun a k => pushLevel a (quantize (cell r (c + k)))) emptyLanes)

/-- `pack_segment(q, p)`: rows top to bottom, groups of 8 columns left to right (40_frame_encoder.md R96). -/
def packSegment (cell : Nat → Nat → Byte) (q : Quadrant) (p : Plane) : List Byte :=
  (List.range cfg.quadH).flatMap (fun r =>
    (List.range (bytesPerRow q)).map (fun j => packByte cell p (quadRow q + r) (quadCol q + 8 * j)))

/-- The packed frame of a raster: the eight segments in SEG_ORDER (30_encoding.md R63). -/
def packFrame (cell : Nat → Nat → Byte) : List Byte :=
  cfg.segOrder.flatMap (fun s => packSegment cell s.1 s.2)

/-- The level UNPACK reads for one cell; none where the frame lacks its bytes or its code is 01
(40_frame_encoder.md R101). -/
def unpackCell (frame : List Byte) (r c : Nat) : Option Level :=
  let at' := locate r c
  match frame[at'.msbOffset]?, frame[at'.lsbOffset]? with
  | some mo, some lo =>
    levelOf (BitVec.ofBool (mo.getLsbD at'.bit) ++ BitVec.ofBool (lo.getLsbD at'.bit))
  | _, _ => none

/-- UNPACK, the reference inverse: the levels row by row, or none where a cell's code is 01 (40_frame_encoder.md R101).
Not a command of the block. DESIGN CHOICE, safe: a buffer of another length than 320,784 bytes, shorter or longer, is
rejected too; R101 takes 320,784 bytes and 91_not_in_source.md N12 leaves any other length open (log entry 30). -/
def unpack (frame : List Byte) : Option (List (List Level)) :=
  if frame.length = cfg.frameBytes then
    (List.range cfg.panelH).mapM (fun r => (List.range cfg.panelW).mapM (fun c => unpackCell frame r c))
  else none

end Sys2Proof.Machine
end

