-- ==== Sys2Proof/Machine/Ops.lean ====
section
/-! DEFINITION. The named operations of the machine: the frame buffer, the transport primitives, completing a command,
raising an error (what plays exception entry's part here), the steps of the environment, and fetching. -/

namespace Sys2Proof.Machine

/-- What a meaning answers. -/
abbrev Out := Host.Outcome State Fault Refusal

/-! ### The frame buffer (10_state.md R24, 20_memory.md R40; MemRead and MemWrite of 00_scope.md section 6) -/

/-- The canonical form: offsets strictly rising. An unlisted offset holds no value, so no entry can equal it. -/
abbrev Memory.wf (m : Memory) : Prop := m.Pairwise (fun x y => x.1 < y.1)

/-- `FB[k]`; none where the byte holds no value (10_state.md R24, log entry 9). -/
def readByte (m : Memory) (k : Nat) : Option Byte := m.lookup k

/-- Bytes at rising offsets from k on. -/
def cellsFrom (k : Nat) (bytes : List Byte) : Memory :=
  match bytes with
  | [] => []
  | b :: rest => (k, b) :: cellsFrom (k + 1) rest

/-- The n bytes at offsets k, k + 1, and so on, if they are the first entries; none where one of them holds no value. -/
def consecutive (k n : Nat) (m : Memory) : Option (List Byte) :=
  match n with
  | 0 => some []
  | n + 1 =>
    match m with
    | [] => none
    | c :: rest =>
      if c.1 = k then
        match consecutive (k + 1) n rest with
        | some bytes => some (c.2 :: bytes)
        | none => none
      else none

/-- `MemRead(k, n)`; none where one of the bytes holds no value. -/
def memRead (m : Memory) (k n : Nat) : Option (List Byte) :=
  consecutive k n (m.dropWhile (fun c => decide (c.1 < k)))

/-- `MemWrite(k, n, v)`, n the length of v: what lies below k and from k + n on stays. -/
def memWrite (m : Memory) (k : Nat) (bytes : List Byte) : Memory :=
  let stop := k + bytes.length
  m.takeWhile (fun c => decide (c.1 < k)) ++ cellsFrom k bytes
    ++ m.dropWhile (fun c => decide (c.1 < stop))

/-- PACK's loop: the segments in SEG_ORDER, each written where the one before it ended (40_frame_encoder.md R97).
Irreducible, so that no proof evaluates it by accident; its lemmas are in Laws/Encoder.lean. -/
@[irreducible] def writeSegments (cell : Nat → Nat → Byte) (order : List (Quadrant × Plane)) (k : Nat) (m : Memory) : Memory :=
  match order with
  | [] => m
  | s :: rest =>
    let segment := packSegment cell s.1 s.2
    writeSegments cell rest (k + segment.length) (memWrite m k segment)

/-! ### The transport primitives (41_link_protocol.md R111 to R114) -/

/-- `LinkRead()` (41_link_protocol.md R112): a failure decided by the environment comes first, then a closed transport's
error, then the head of RXQ; with an open transport and nothing queued it does not return. -/
def linkRead (s : State) : ReadOutcome × State :=
  match s.failNext with
  | some f => (.ioError f.info, { s with failNext := none })
  | none =>
    if s.tOpen then
      match s.rxq with
      | [] => (.blocked, s)
      | b :: rest => (.byte b, { s with rxq := rest })
    else (.ioError (Config.freeInfo s.freeCtr), { s with freeCtr := s.freeCtr + 1 })

/-- `LinkWrite(bs)` (41_link_protocol.md R113): all bytes go out, or the environment's k of them (none on a closed
transport) and then an error. -/
def linkWrite (bytes : List Byte) (s : State) : WriteOutcome × State :=
  match s.failNext with
  | some f =>
    (.ioError f.info,
      { s with failNext := none, txh := if s.tOpen then s.txh ++ bytes.take f.sent else s.txh })
  | none =>
    if s.tOpen then (.ok, { s with txh := s.txh ++ bytes })
    else (.ioError (Config.freeInfo s.freeCtr), { s with freeCtr := s.freeCtr + 1 })

/-- `LinkClose()`: always returns, and every call counts (41_link_protocol.md R114). -/
def linkClose (s : State) : State :=
  { s with tOpen := false, tcloses := s.tcloses + 1 }

/-! ### Completing a command (00_scope.md section 6, 10_state.md R22) -/

/-- The block takes the code at the port; the host stays blocked until a result comes (10_state.md R27). -/
def accept (s : State) : State :=
  { s with port := none }

/-- The running command ends with a result, which the host receives. -/
def complete (r : Result) (s : State) : State :=
  { s with port := none, results := s.results ++ [r] }

/-- A refused command: no transport primitive, no change of the block's state (41_link_protocol.md R117, 30_encoding.md
R78). -/
def refuseCommand (s : State) : State :=
  complete .commandRefused s

/-- Raising an error in a link command: the failure sequence, as one step (60_exceptions.md R170). There is no handler,
nothing saved, and no return from it (R172). -/
def raiseError (e : LinkError) (s : State) : State :=
  complete (linkErrorResult e)
    { linkClose s with linkState := .closed, linkFault := linkErrorFault e, phase := .idle }

/-- `finish(Ok)` of CLOSE: as the failure sequence, but LINK_FAULT becomes None (41_link_protocol.md R130). -/
def finishOk (s : State) : State :=
  complete .ok { linkClose s with linkState := .closed, linkFault := .none, phase := .idle }

/-- A step of the block at one PHASE; at any other PHASE there is no step (41_link_protocol.md R132, log entry 12). -/
def atPhase (p : Phase) (s : State) (next : Out) : Out :=
  if s.phase = p then next else .fault .noStep

/-- A micro-step that reads one byte (41_link_protocol.md R119, R124, R129). While the read blocks nothing changes: a
wait is not an error (60_exceptions.md R173, log entry 11). -/
def readStep (s : State) (onByte : Byte → State → State) (onError : Info → State → State) : Out :=
  match linkRead s with
  | (.byte b, t) => .next (onByte b t)
  | (.ioError info, t) => .next (onError info t)
  | (.blocked, t) => .next t

/-- A micro-step that writes (41_link_protocol.md R122, R123, R128): on to the next PHASE, or TransportError. -/
def writeStep (bytes : List Byte) (next : Phase) (s : State) : Out :=
  match linkWrite bytes s with
  | (.ok, t) => .next { t with phase := next }
  | (.ioError info, t) => .next (raiseError (.transport info) t)

/-- A pixel code enters the lanes and leaves the encoder's port (40_frame_encoder.md R95). -/
def enterPixel (v : Level) (s : State) : State :=
  { s with port := none, lanes := pushLevel s.lanes v }

/-! ### The environment (41_link_protocol.md R115) -/

/-- A step of the environment. A step that is not allowed where it stands does nothing (log entry 13): a device sends
only through an open transport, the host attaches only in Closed and Idle, and it presents nothing while its last call
has not returned (10_state.md R27). -/
def envStep (e : EnvStep) (s : State) : State :=
  match e with
  | .devSend b => if s.tOpen then { s with rxq := s.rxq ++ [b] } else s
  | .devTake => s
  | .fail f => { s with failNext := some f }
  | .oobClose => { s with tOpen := false }
  | .attach rx =>
    if s.linkState = .closed ∧ s.phase = .idle then { s with tOpen := true, rxq := rx } else s
  | .present ras =>
    if s.phase = .idle ∧ s.port = none then { s with ras := ras } else s
  | .issue op =>
    if s.phase = .idle ∧ s.port = none then { s with port := some (.cmd op) } else s

/-! ### Fetching (10_state.md R27) -/

/-- What the block is about to do. -/
inductive Fetch where
  /-- It runs an instruction. -/
  | run (i : Instr)
  /-- It waits at PHASE Idle for a command. -/
  | wait
  /-- It cannot assemble its instruction. -/
  | stop (f : Fault)
deriving DecidableEq, Repr

/-- PHASE says which token comes next; at Idle the code at the port does. FRAME's payload is FB from offset 0 up
(41_link_protocol.md R123, 20_memory.md R47 e). -/
def fetch (s : State) : Fetch :=
  match s.phase with
  | .idle =>
    match s.port with
    | none => .wait
    | some (.cmd op) => .run (decodeCmd op)
    | some (.pix code) => .run (decodePix code)
  | .openWait => .run .rdy
  | .txCmd => .run .beginTx
  | .txData =>
    match memRead s.fb 0 cfg.frameBytes with
    | some payload => .run (.frame payload)
    | none => .stop .unwrittenFrame
  | .txAck => .run .fack
  | .clCmd => .run .sleep
  | .clAck => .run .sack

/-! ### Putting an instruction where the next step fetches it (log entry 17) -/

/-- The state in which the next micro-step of the block is this instruction: a code stands at the port in PHASE Idle; a
token's PHASE holds, with an open transport that does not fail and, for a token the block reads, the token's byte first
in RXQ, and with the LINK_STATE that goes with the PHASE (10_state.md R27); FRAME's bytes are in FB. -/
def placeInstr (i : Instr) (s : State) : State :=
  match encode i with
  | .pix code => { s with phase := .idle, port := some (.pix code) }
  | .cmd op => { s with phase := .idle, port := some (.cmd op) }
  | .rx p bytes =>
    { s with
      phase := p, tOpen := true, failNext := none, rxq := bytes ++ s.rxq
      linkState := if p = .openWait then .closed else if p = .txAck then .transmitting else .awake }
  | .tx p bytes =>
    { s with
      phase := p, tOpen := true, failNext := none
      linkState := if p = .clCmd then .awake else .transmitting
      fb := if p = .txData then memWrite s.fb 0 bytes else s.fb
      fbValid := if p = .txData then true else s.fbValid }

/-- Bits that are no instruction stand as a received byte at OPEN's read (30_encoding.md R71). -/
def placeByte (b : Byte) (s : State) : State :=
  { s with phase := .openWait, tOpen := true, failNext := none, rxq := b :: s.rxq, linkState := .closed }

/-- The block moves next. -/
def giveTurn (s : State) : State :=
  match s.sched with
  | [] => s
  | .env e :: rest => { s with sched := .block :: .env e :: rest }
  | .block :: rest => { s with sched := .block :: rest }

end Sys2Proof.Machine
end

