-- ==== Sys2Proof/Machine/Encoder.lean ====
section
/-! DEFINITION. The frame encoder's command, PACK (40_frame_encoder.md). -/

namespace Sys2Proof.Machine

/-- PACK at PHASE Idle, in any LINK_STATE: a raster that is not valid gives InvalidFrame and writes nothing (R98); a
valid one fills FB and sets FB_VALID, as one step (R97). -/
def execPack (s : State) : Out :=
  atPhase .idle s
    (if s.ras.valid then
      .next (complete .ok
        { s with fb := writeSegments s.ras.cell8 cfg.segOrder 0 s.fb, fbValid := true })
    else .next (complete .invalidFrame s))

end Sys2Proof.Machine
end

