-- ==== Sys2Proof/Machine/Link.lean ====
section
/-! DEFINITION. The link engine: the acceptance of OPEN, TRANSMIT and CLOSE, and their micro-steps, each the meaning of
the wire token it reads or writes (41_link_protocol.md). -/

namespace Sys2Proof.Machine

/-- OPEN (41_link_protocol.md R117, R118): accepted in Closed; it writes nothing to the link. -/
def execOpenLink (s : State) : Out :=
  atPhase .idle s
    (match s.linkState with
    | .closed => .next { accept s with linkFault := .none, phase := .openWait }
    | .awake => .next (refuseCommand s)
    | .transmitting => .next (refuseCommand s))

/-- TRANSMIT (41_link_protocol.md R117, R121): accepted in Awake with FB_VALID = 1. -/
def execTransmit (s : State) : Out :=
  atPhase .idle s
    (match s.linkState with
    | .awake =>
      if s.fbValid then .next { accept s with linkState := .transmitting, phase := .txCmd }
      else .next (refuseCommand s)
    | .closed => .next (refuseCommand s)
    | .transmitting => .next (refuseCommand s))

/-- CLOSE (41_link_protocol.md R117, R126, R127): the sleep handshake from Awake; a no-op with result Ok after a link
failure; refused when the link was never opened or was closed cleanly. -/
def execCloseLink (s : State) : Out :=
  atPhase .idle s
    (match s.linkState with
    | .awake => .next { accept s with phase := .clCmd }
    | .closed => if s.linkFault = .none then .next (refuseCommand s) else .next (complete .ok s)
    | .transmitting => .next (refuseCommand s))

/-- RDY, OPEN's read at OpenWait (41_link_protocol.md R119): a wrong byte and a transport error alike are
LinkInitError, and the error's info is dropped. -/
def execRdy (s : State) : Out :=
  atPhase .openWait s
    (readStep s
      (fun b t =>
        if b = cfg.byteReady then complete .ok { t with linkState := .awake, phase := .idle }
        else raiseError .linkInit t)
      (fun _ t => raiseError .linkInit t))

/-- BEGIN, TRANSMIT's first write at TxCmd (41_link_protocol.md R122). -/
def execBeginTx (s : State) : Out :=
  atPhase .txCmd s (writeStep [cfg.byteReady] .txData s)

/-- FRAME, TRANSMIT's payload write at TxData, raw, first byte first (41_link_protocol.md R123). The fetch takes the
payload from FB; a term of another length is no FRAME (30_encoding.md R63). -/
def execFrame (payload : List Byte) (s : State) : Out :=
  if payload.length = cfg.frameBytes then atPhase .txData s (writeStep payload .txAck s)
  else .refused .malformedFrame

/-- FACK, TRANSMIT's read at TxAck (41_link_protocol.md R124). -/
def execFack (s : State) : Out :=
  atPhase .txAck s
    (readStep s
      (fun b t =>
        if b = cfg.byteReady then complete .ok { t with linkState := .awake, phase := .idle }
        else raiseError .frameNotAcknowledged t)
      (fun info t => raiseError (.transport info) t))

/-- SLEEP, CLOSE's write at ClCmd (41_link_protocol.md R128): after an error the read is skipped. -/
def execSleep (s : State) : Out :=
  atPhase .clCmd s (writeStep [cfg.byteSleep] .clAck s)

/-- SACK, CLOSE's read at ClAck (41_link_protocol.md R129, R130): the transport is closed in all cases. -/
def execSack (s : State) : Out :=
  atPhase .clAck s
    (readStep s
      (fun b t => if b = cfg.byteSleep then finishOk t else raiseError .sleepNotAcknowledged t)
      (fun info t => raiseError (.transport info) t))

end Sys2Proof.Machine
end

