-- ==== Sys2Proof/Machine/Pixel.lean ====
section
/-! DEFINITION. The pixel codes: what the frame encoder does with the code of one cell (40_frame_encoder.md R94, R95).
PACK runs this for all cells as one atomic step; log entry 10. -/

namespace Sys2Proof.Machine

/-- BLACK: bits (0,0) (30_encoding.md R61). -/
def execBlack (s : State) : Out :=
  .next (enterPixel .black s)

/-- WHITE: bits (1,0) (30_encoding.md R61). -/
def execWhite (s : State) : Out :=
  .next (enterPixel .white s)

/-- RED: bits (1,1) (30_encoding.md R61). -/
def execRed (s : State) : Out :=
  .next (enterPixel .red s)

/-- PIX_RESERVED_01: the block gives it no meaning (30_encoding.md R70). -/
def execPixReserved01 (_ : State) : Out :=
  .refused .pixelReserved

end Sys2Proof.Machine
end

