-- ==== Sys2Proof/Machine/Reserved.lean ====
section
/-! DEFINITION. The reserved command codes: each completes with CommandRefused and has no effect (30_encoding.md R78). -/

namespace Sys2Proof.Machine

/-- Code 000. -/
def execCmdReserved000 (s : State) : Out :=
  atPhase .idle s (.next (refuseCommand s))

/-- Code 101. -/
def execCmdReserved101 (s : State) : Out :=
  atPhase .idle s (.next (refuseCommand s))

/-- Code 110. -/
def execCmdReserved110 (s : State) : Out :=
  atPhase .idle s (.next (refuseCommand s))

/-- Code 111. -/
def execCmdReserved111 (s : State) : Out :=
  atPhase .idle s (.next (refuseCommand s))

end Sys2Proof.Machine
end

