-- ==== Sys2Proof/Machine/Dispatch.lean ====
section
/-! DEFINITION. One arm per row of spec/opcode_table.json. -/

namespace Sys2Proof.Machine

def exec (i : Instr) (s : State) : Host.Outcome State Fault Refusal :=
  match i with
  | .rdy => Sys2Proof.Machine.execRdy s
  | .beginTx => Sys2Proof.Machine.execBeginTx s
  | .frame payload => Sys2Proof.Machine.execFrame payload s
  | .fack => Sys2Proof.Machine.execFack s
  | .sleep => Sys2Proof.Machine.execSleep s
  | .sack => Sys2Proof.Machine.execSack s
  | .black => Sys2Proof.Machine.execBlack s
  | .pixReserved01 => Sys2Proof.Machine.execPixReserved01 s
  | .white => Sys2Proof.Machine.execWhite s
  | .red => Sys2Proof.Machine.execRed s
  | .cmdReserved000 => Sys2Proof.Machine.execCmdReserved000 s
  | .pack => Sys2Proof.Machine.execPack s
  | .openLink => Sys2Proof.Machine.execOpenLink s
  | .transmit => Sys2Proof.Machine.execTransmit s
  | .closeLink => Sys2Proof.Machine.execCloseLink s
  | .cmdReserved101 => Sys2Proof.Machine.execCmdReserved101 s
  | .cmdReserved110 => Sys2Proof.Machine.execCmdReserved110 s
  | .cmdReserved111 => Sys2Proof.Machine.execCmdReserved111 s

end Sys2Proof.Machine
end

