-- ==== Sys2Proof/Machine/Step.lean ====
section
/-! DEFINITION. One step of the machine: a step of the environment, or one micro-step of the block
(41_link_protocol.md R115, R132). -/

namespace Sys2Proof.Machine

/-- One micro-step of the block: the instruction PHASE and the port fetch; at PHASE Idle with no command, a wait. -/
def blockStep (s : State) : Host.Outcome State Fault Refusal :=
  match fetch s with
  | .run i => exec i s
  | .wait => .next s
  | .stop f => .fault f

/-- The schedule says who moves; once it is empty, the block does (log entry 1). -/
def step (s : State) : Host.Outcome State Fault Refusal :=
  match s.sched with
  | [] => blockStep s
  | .block :: rest => blockStep { s with sched := rest }
  | .env e :: rest => .next (envStep e { s with sched := rest })

/-- The state in which the next step runs the instruction of an opcode-table word (log entry 17). -/
def State.withFetchWord (s : State) (nbits w : Nat) : State :=
  match decodeTableWord nbits w with
  | some i => giveTurn (placeInstr i s)
  | none => giveTurn (placeByte (wordByte w 0) s)

end Sys2Proof.Machine
end

