-- ==== Sys2Proof/Machine/Device.lean ====
section
/-! DEFINITION. The conforming device of 41_link_protocol.md R135: one environment among all those of R115, outside the
block, for claims that need a device that answers. A silent device leaves the environment to the schedule. -/

namespace Sys2Proof.Machine

/-- Where the device is. -/
inductive DeviceMode where
  /-- It does nothing of its own accord. -/
  | silent
  /-- It has been reset and has not yet sent its ready byte (R135, 70_reset_and_hazards.md R194). -/
  | started
  /-- It waits for the first byte of a message. -/
  | idle
  /-- It counts the payload bytes still to come (30_encoding.md R68). -/
  | receiving (left : Nat)
  /-- It has confirmed a sleep (60_exceptions.md R177). -/
  | asleep
deriving DecidableEq, Repr

/-- The device: its mode, and how many bytes of TXH it has consumed. -/
structure Device where
  mode  : DeviceMode
  taken : Nat
deriving DecidableEq, Repr

/-- One act of the device on the bytes sent so far. It sends RDY once after its reset, FACK after a whole frame message
and SACK after a sleep byte, and nothing else (R135). DESIGN CHOICE, log entry 23: when a reset device sends RDY is left open
(91_not_in_source.md N6); here it is the device's first act, also where no transport is open, and then that byte is lost
and an OPEN over a later attachment waits for ever (70_reset_and_hazards.md R194). A byte that begins no message leaves
the device where it is, and an answer is sent in the round in which the last byte of its message has come. -/
def deviceStep (d : Device) (s : State) : Device × State :=
  match d.mode with
  | .silent => (d, s)
  | .started => ({ d with mode := .idle }, envStep (.devSend cfg.byteReady) s)
  | .idle =>
    match decodeTx .txCmd (s.txh.drop d.taken) with
    | .ok _ => ({ mode := .receiving cfg.frameBytes, taken := d.taken + 1 }, envStep .devTake s)
    | .error _ =>
      match decodeTx .clCmd (s.txh.drop d.taken) with
      | .ok _ => ({ mode := .asleep, taken := d.taken + 1 }, envStep (.devSend cfg.byteSleep) s)
      | .error _ => (d, s)
  | .receiving left =>
    let n := min left (s.txh.length - d.taken)
    if left ≤ n then ({ mode := .idle, taken := d.taken + n }, envStep (.devSend cfg.byteReady) s)
    else ({ mode := .receiving (left - n), taken := d.taken + n }, envStep .devTake s)
  | .asleep => (d, s)

/-- The machine and the device at the far end of its link. -/
structure World where
  machine : State
  device  : Device
deriving DecidableEq, Repr

/-- The device acts, then the machine takes a step; none where the machine stops. -/
def round (w : World) : Option World :=
  match step (deviceStep w.device w.machine).2 with
  | .next t => some { machine := t, device := (deviceStep w.device w.machine).1 }
  | .fault _ => none
  | .refused _ => none

end Sys2Proof.Machine
end

