-- ==== Sys2Proof/Machine/Session.lean ====
section
/-! DEFINITION. The host's sequences SEND, SHOW, SESSION and SHOW_ONCE (42_session.md, 30_encoding.md R81), built on top
of the four commands. They are the host's contract, not part of the block (00_scope.md R4). A sequence answers none when
a command of it never completes (41_link_protocol.md R133). -/

namespace Sys2Proof.Machine

/-- Rounds until the host's call returns, that is, until there are more results than `n`; none if the rounds run out. -/
def awaitResult : Nat → Nat → World → Option World
  | 0, _, _ => none
  | fuel + 1, n, w =>
    match round w with
    | none => none
    | some w' => if n < w'.machine.results.length then some w' else awaitResult fuel n w'

/-- How many rounds a command is given: once the schedule is empty, the block and the conforming device need no more
than these, or the block waits for ever (log entry 22). -/
def roundsFor (s : State) : Nat := s.sched.length + 16

/-- The host issues one command and waits for its result (42_session.md R148, duty 2). -/
def issueCommand (op : BitVec 3) (w : World) : Option (Result × World) :=
  let m := envStep (.issue op) w.machine
  match awaitResult (roundsFor m) m.results.length { w with machine := m } with
  | none => none
  | some w' =>
    match w'.machine.results.getLast? with
    | none => none
    | some r => some (r, w')

/-- An operation of a session's body (42_session.md R142). -/
inductive BodyOp where
  | send (ras : Raster)
  | show (ras : Raster)
deriving DecidableEq, Repr

/-- The raster of an operation. -/
def bodyRaster : BodyOp → Raster
  | .send ras => ras
  | .show ras => ras

/-- SEND(raster): PACK, and TRANSMIT only if it was Ok (42_session.md R143). -/
def sendRaster (ras : Raster) (w : World) : Option (Result × World) :=
  match issueCommand 0b001#3 { w with machine := envStep (.present ras) w.machine } with
  | none => none
  | some (p, w') => if p = .ok then issueCommand 0b011#3 w' else some (p, w')

/-- SHOW(raster) is identical to SEND (42_session.md R144). -/
def showRaster (ras : Raster) (w : World) : Option (Result × World) :=
  sendRaster ras w

/-- One operation of the body. -/
def runBodyOp (o : BodyOp) (w : World) : Option (Result × World) :=
  match o with
  | .send ras => sendRaster ras w
  | .show ras => showRaster ras w

/-- The body: its operations in order, up to the first that returns an error (42_session.md R142). -/
def runBody : List BodyOp → World → Option (Result × World)
  | [], w => some (.ok, w)
  | o :: rest, w =>
    match runBodyOp o w with
    | none => none
    | some (r, w') => if r = .ok then runBody rest w' else some (r, w')

/-- The surfaced result: the first error, the body's before the CLOSE's (42_session.md R146). -/
def surface (body close : Result) : Result :=
  if body = .ok then close else body

/-- SESSION(t) with a body: attach, OPEN; if Ok the body, then CLOSE exactly once (42_session.md R141, R145, R146). -/
def session (rx : List Byte) (body : List BodyOp) (w : World) : Option (Result × World) :=
  match issueCommand 0b010#3 { w with machine := envStep (.attach rx) w.machine } with
  | none => none
  | some (o, w₁) =>
    if o = .ok then
      match runBody body w₁ with
      | none => none
      | some (b, w₂) =>
        match issueCommand 0b100#3 w₂ with
        | none => none
        | some (c, w₃) => some (surface b c, w₃)
    else some (o, w₁)

/-- SHOW_ONCE(t, raster): a session that sends once (42_session.md R147). -/
def showOnce (rx : List Byte) (ras : Raster) (w : World) : Option (Result × World) :=
  session rx [.send ras] w

end Sys2Proof.Machine
end

