-- ==== Sys2Proof/Safety.lean ====
section
/-! DEFINITION. What a state of a run of this machine satisfies, in the terms the claims use. -/

namespace Sys2Proof.Machine

/-- (I1) PHASE and LINK_STATE agree (41_link_protocol.md R116, 10_state.md R27). -/
def phaseAgrees (s : State) : Prop :=
  match s.phase with
  | .idle => s.linkState = .closed ∨ s.linkState = .awake
  | .openWait => s.linkState = .closed
  | .txCmd => s.linkState = .transmitting
  | .txData => s.linkState = .transmitting
  | .txAck => s.linkState = .transmitting
  | .clCmd => s.linkState = .awake
  | .clAck => s.linkState = .awake

/-- (I2) A live link has no fault (41_link_protocol.md R116), nor has one that OPEN is waiting on: its acceptance
cleared it (R118). -/
def faultAgrees (s : State) : Prop :=
  (s.linkState = .awake ∨ s.linkState = .transmitting ∨ s.phase = .openWait) → s.linkFault = .none

/-- (I3) A live link has an open transport, and one closed by a failure a closed transport (41_link_protocol.md R116).
An out-of-band close breaks the first half and Attach the second: log entry 19. -/
def transportAgrees (s : State) : Prop :=
  ((s.linkState = .awake ∨ s.linkState = .transmitting) → s.tOpen = true)
  ∧ (s.linkState = .closed → s.linkFault ≠ .none → s.tOpen = false)

/-- The offsets of FB, rising (10_state.md R24). Irreducible: no proof needs the list itself, only `frameOffsets_eq` and
`mem_frameOffsets` of Laws/Encoder.lean. -/
@[irreducible] def frameOffsets : List Nat := List.range' 0 cfg.frameBytes

/-- FB holds a whole frame exactly when FB_VALID = 1, and otherwise no byte of it holds a value (10_state.md R24). -/
def frameHeld (s : State) : Prop :=
  (s.fbValid = true → s.fb.map (·.1) = frameOffsets) ∧ (s.fbValid = false → s.fb = [])

/-- TRANSMIT is only ever in progress with a frame to send (41_link_protocol.md R121). -/
def frameReady (s : State) : Prop :=
  s.linkState = .transmitting → s.fbValid = true

/-- While a command is in progress nothing stands at the port: the host is blocked in its call (10_state.md R27). -/
def portTaken (s : State) : Prop :=
  s.phase ≠ .idle → s.port = none

/-- The invariant of a run: everything above that no step of the block or of the environment breaks. -/
structure RunInv (s : State) : Prop where
  phase : phaseAgrees s
  fault : faultAgrees s
  held  : frameHeld s
  ready : frameReady s
  port  : portTaken s

/-- No pixel code stands at the port: the encoder takes them inside PACK only (40_frame_encoder.md R97, log entry 10). -/
def noPixelCode (s : State) : Prop :=
  ∀ code, s.port ≠ some (.pix code)

/-- The block moves in the next step, from the state `t`: the schedule is empty, or gives it this turn. -/
def blockTurn (s t : State) : Prop :=
  (s.sched = [] ∧ t = s) ∨ (∃ rest, s.sched = .block :: rest ∧ t = { s with sched := rest })

/-- The schedule's next turn neither closes the transport out of band nor attaches another. -/
def noTransportChange (s : State) : Prop :=
  ∀ e rest, s.sched = .env e :: rest → e ≠ .oobClose ∧ ∀ rx, e ≠ .attach rx

/-- The block waits: it is at a read, the transport is open, nothing has come and no failure is due
(41_link_protocol.md R133). -/
def waiting (s : State) : Prop :=
  (s.phase = .openWait ∨ s.phase = .txAck ∨ s.phase = .clAck)
  ∧ s.tOpen = true ∧ s.rxq = [] ∧ s.failNext = none

/-- The state the failure sequence leaves, written out from 60_exceptions.md R170: the transport closed and the call
counted, LINK_STATE Closed, LINK_FAULT the error's kind, PHASE Idle, the result delivered, and nothing else. -/
def afterFailure (r : Result) (f : LinkFault) (s : State) : State :=
  { s with
    tOpen := false, tcloses := s.tcloses + 1, linkState := .closed, linkFault := f, phase := .idle
    port := none, results := s.results ++ [r] }

/-- The state a command leaves that completes with a result and has no other effect (41_link_protocol.md R117). -/
def onlyResult (r : Result) (s : State) : State :=
  { s with port := none, results := s.results ++ [r] }

/-- Between commands, with the device at the other end of an open link: the block is Idle with nothing at its port,
nothing is received and unread, the device has consumed all that was sent, and nothing is due from the environment but
the device's own acts. -/
structure LinkQuiet (w : World) : Prop where
  idle     : w.machine.phase = .idle
  port     : w.machine.port = none
  sched    : w.machine.sched = []
  noFail   : w.machine.failNext = none
  isOpen   : w.machine.tOpen = true
  read     : w.machine.rxq = []
  consumed : w.device.taken = w.machine.txh.length

/-- So many steps of the machine, stopping at the first that is not a next state. -/
def stepN : Nat → State → Host.Outcome State Fault Refusal
  | 0, s => .next s
  | n + 1, s =>
    match step s with
    | .next t => stepN n t
    | .fault f => .fault f
    | .refused r => .refused r

/-- Instructions one after another, up to the first that stops. -/
def execAll : List Instr → State → Host.Outcome State Fault Refusal
  | [], s => .next s
  | i :: rest, s =>
    match exec i s with
    | .next t => execAll rest t
    | .fault f => .fault f
    | .refused r => .refused r

/-- The pixel code of a level, as an instruction (30_encoding.md R61). -/
def pixelInstr : Level → Instr
  | .black => .black
  | .white => .white
  | .red => .red

/-- The grid of levels of a raster, row by row. -/
def levelGrid (cell : Nat → Nat → Byte) : List (List Level) :=
  (List.range 984).map (fun r => (List.range 1304).map (fun c => quantize (cell r c)))

/-- The PHASE at which an instruction is executed (30_encoding.md R65, 41_link_protocol.md R117); a pixel code is not
tied to one. -/
def phaseOfInstr : Instr → Option Phase
  | .rdy => some .openWait
  | .beginTx => some .txCmd
  | .frame _ => some .txData
  | .fack => some .txAck
  | .sleep => some .clCmd
  | .sack => some .clAck
  | .black => none
  | .pixReserved01 => none
  | .white => none
  | .red => none
  | .cmdReserved000 => some .idle
  | .pack => some .idle
  | .openLink => some .idle
  | .transmit => some .idle
  | .closeLink => some .idle
  | .cmdReserved101 => some .idle
  | .cmdReserved110 => some .idle
  | .cmdReserved111 => some .idle

end Sys2Proof.Machine
end

