-- ==== Sys2Proof/Certificates/Slice0/Obligations.lean ====
section
/-! DEFINITION. The statements for the provers. Each docstring names the rules of spec/ it comes from; a clause that is
the model's own choice names its log entry. -/

open Sys2Proof Sys2Proof.Machine

/-! ### Stepping, fetching, decoding, reset -/

/-- A step of the block runs the instruction it fetches, from the state in which it has its turn; it waits when there is
none; a turn of the environment is one step of the environment. What is fetched is well-formed, and at PHASE Idle a
command code at the port is fetched as the instruction it decodes to (10_state.md R27; 41_link_protocol.md R115). Three
things are the model's choice: who has the turn (log entry 1), a wait as a next state equal to the present one (log entry
11), and that a fetch which cannot assemble its instruction, FRAME over a frame buffer with a byte that holds no value,
stops with a fault (log entry 9). -/
def Obligations.StepRunsTheFetchedInstruction : Prop :=
  (∀ s u i, blockTurn s u → fetch u = .run i → i.wf = true ∧ step s = exec i u)
  ∧ (∀ s u op, blockTurn s u → u.phase = .idle → u.port = some (.cmd op) → step s = exec (decodeCmd op) u)
  ∧ (∀ s u, blockTurn s u → u.phase = .idle → u.port = none → step s = .next u)
  ∧ (∀ s u f, blockTurn s u → fetch u = .stop f → step s = .fault f)
  ∧ (∀ s e rest, s.sched = .env e :: rest → step s = .next (envStep e { s with sched := rest }))

/-- Each of the six phases of a command in progress fetches its own token (10_state.md R27, 30_encoding.md R65). -/
def Obligations.EachPhaseFetchesItsToken : Prop :=
  ∀ s : State,
    (s.phase = .openWait → fetch s = .run .rdy)
    ∧ (s.phase = .txCmd → fetch s = .run .beginTx)
    ∧ (s.phase = .txAck → fetch s = .run .fack)
    ∧ (s.phase = .clCmd → fetch s = .run .sleep)
    ∧ (s.phase = .clAck → fetch s = .run .sack)
    ∧ (∀ payload, s.phase = .txData → memRead s.fb 0 320784 = some payload → fetch s = .run (.frame payload))

/-- The values the spec gives for reset, the constants among them, and that the block then waits (10_state.md R34, with
the values of 00_scope.md R8). RAS, T_OPEN and RXQ, which R34 leaves to the environment, are not in it: the model's values
for them are log entries 7 and 8. Not the source's plain words: the bytes 0x72 and 0x73 (log entry 2) and the segment
order (log entry 3); and that a step at reset answers the reset state is the model's choice, its form of a wait (log
entry 11) under an empty schedule (log entry 1). -/
def Obligations.ResetLeavesTheStatedValues : Prop :=
  State.reset.linkState = .closed ∧ State.reset.linkFault = .none ∧ State.reset.phase = .idle
  ∧ State.reset.fbValid = false ∧ (∀ k, readByte State.reset.fb k = none) ∧ State.reset.txh = []
  ∧ State.reset.tcloses = 0 ∧ step State.reset = .next State.reset
  ∧ cfg.panelW = 1304 ∧ cfg.panelH = 984 ∧ cfg.rowSplit = 492 ∧ cfg.colSplit = 648 ∧ cfg.tBlack = 32 ∧ cfg.tWhite = 222
  ∧ cfg.frameBytes = 320784 ∧ cfg.byteReady = 0x72#8 ∧ cfg.byteSleep = 0x73#8
  ∧ cfg.segOrder = [(.bottomRight, .msb), (.bottomRight, .lsb), (.bottomLeft, .msb), (.bottomLeft, .lsb),
      (.topLeft, .msb), (.topLeft, .lsb), (.topRight, .msb), (.topRight, .lsb)]

/-- The reset state meets the invariant, its transport part included, and no pixel code stands at its port. -/
def Obligations.ResetMeetsTheInvariant : Prop :=
  RunInv State.reset ∧ transportAgrees State.reset ∧ noPixelCode State.reset

/-- A few words of the opcode table, written out bit by bit, decode to their instructions (30_encoding.md R61, R67,
R76). -/
def Obligations.TableWordsDecode : Prop :=
  decodePix 0b00#2 = .black ∧ decodePix 0b01#2 = .pixReserved01 ∧ decodePix 0b10#2 = .white ∧ decodePix 0b11#2 = .red
  ∧ decodeCmd 0b001#3 = .pack ∧ decodeCmd 0b010#3 = .openLink ∧ decodeCmd 0b011#3 = .transmit
  ∧ decodeCmd 0b100#3 = .closeLink ∧ decodeCmd 0b101#3 = .cmdReserved101
  ∧ decodeRx .openWait [0b01110010#8] = .ok (.rdy, []) ∧ decodeRx .clAck [0b01110011#8] = .ok (.sack, [])
  ∧ decodeTx .txCmd [0b01110010#8] = .ok (.beginTx, []) ∧ decodeTx .clCmd [0b01110011#8] = .ok (.sleep, [])

/-- Received bytes: at each of the three reads one byte is the token and each of the other 255 is illegal; at any other
PHASE nothing is decoded (30_encoding.md R67, R71). -/
def Obligations.ReceivedByteIsOneTokenOrIllegal : Prop :=
  ∀ (b : Byte) (rest : List Byte),
    decodeRx .openWait (b :: rest) = (if b = 0x72#8 then .ok (.rdy, rest) else .error (.illegalByte b))
    ∧ decodeRx .txAck (b :: rest) = (if b = 0x72#8 then .ok (.fack, rest) else .error (.illegalByte b))
    ∧ decodeRx .clAck (b :: rest) = (if b = 0x73#8 then .ok (.sack, rest) else .error (.illegalByte b))
    ∧ (∀ p, p ≠ .openWait → p ≠ .txAck → p ≠ .clAck → decodeRx p (b :: rest) = .error .noTokenHere)

/-- Decode of encode is the instruction, for every well-formed instruction and whatever bytes follow it on its stream
(30_encoding.md R61, R63, R65, R76). -/
def Obligations.DecodeOfEncodeIsTheInstruction : Prop :=
  ∀ (i : Instr) (rest : List Byte), i.wf = true →
    ∃ left, decode ((encode i).followedBy rest) = .ok (i, left)
      ∧ (∀ p bytes, encode i = .rx p bytes ∨ encode i = .tx p bytes → left = rest)

/-- A message read off the wire is the message sent, whatever its payload bytes and whatever follows it: payload bytes
equal to tokens are data (30_encoding.md R66, R68; 70_reset_and_hazards.md R205). -/
def Obligations.MessagesReadBackAsSent : Prop :=
  (∀ (payload rest : List Byte), payload.length = 320784 →
    decodeMessage (encodeMessage (.frame payload) ++ rest) = .ok (.frame payload, rest))
  ∧ (∀ rest : List Byte, decodeMessage (encodeMessage .sleep ++ rest) = .ok (.sleep, rest))

/-- The codes have the numbers of the spec's tables, each reads back as its value, and the codes the spec says are never
produced are no value's; the codes of the link errors are those of LINK_FAULT; and what the host reads of LINK_STATE,
LINK_FAULT, FB_VALID and PHASE is the number of the value held (10_state.md R24 to R27, R31; 30_encoding.md R77). -/
def Obligations.StatusCodesReadBack : Prop :=
  (linkStateCode .closed = 0#2 ∧ linkStateCode .awake = 1#2 ∧ linkStateCode .transmitting = 2#2)
  ∧ (linkFaultCode .none = 0#3 ∧ linkFaultCode .linkInitError = 2#3 ∧ linkFaultCode .frameNotAcknowledged = 3#3
    ∧ linkFaultCode .sleepNotAcknowledged = 4#3 ∧ linkFaultCode .transportError = 5#3)
  ∧ (phaseCode .idle = 0#3 ∧ phaseCode .openWait = 1#3 ∧ phaseCode .txCmd = 2#3 ∧ phaseCode .txData = 3#3
    ∧ phaseCode .txAck = 4#3 ∧ phaseCode .clCmd = 5#3 ∧ phaseCode .clAck = 6#3)
  ∧ (resultCode .ok = 0#3 ∧ resultCode .invalidFrame = 1#3 ∧ resultCode .linkInitError = 2#3
    ∧ resultCode .frameNotAcknowledged = 3#3 ∧ resultCode .sleepNotAcknowledged = 4#3
    ∧ (∀ info, resultCode (.transportError info) = 5#3) ∧ resultCode .commandRefused = 6#3)
  ∧ (∀ v, linkStateOf (linkStateCode v) = some v) ∧ linkStateOf 3#2 = none
  ∧ (∀ v, linkFaultOf (linkFaultCode v) = some v) ∧ linkFaultOf 1#3 = none ∧ linkFaultOf 6#3 = none
  ∧ linkFaultOf 7#3 = none
  ∧ (∀ v, phaseOf (phaseCode v) = some v) ∧ phaseOf 7#3 = none
  ∧ (∀ r info, (∀ i, r = .transportError i → i = info) → resultOf (resultCode r) info = some r)
  ∧ (∀ info, resultOf 7#3 info = none) ∧ (∀ r, resultCode r ≠ 7#3)
  ∧ (∀ e, resultCode (linkErrorResult e) = linkFaultCode (linkErrorFault e))
  ∧ ∀ s : State,
    (∀ v, s.linkState = v ↔ hostRead .linkState s = (linkStateCode v).toNat)
    ∧ (∀ v, s.linkFault = v ↔ hostRead .linkFault s = (linkFaultCode v).toNat)
    ∧ (∀ v, s.phase = v ↔ hostRead .phase s = (phaseCode v).toNat)
    ∧ (s.fbValid = true ↔ hostRead .fbValid s = 1) ∧ (s.fbValid = false ↔ hostRead .fbValid s = 0)

/-! ### The frame encoder's functions -/

/-- `quantize` by the three ranges (40_frame_encoder.md R92). -/
def Obligations.QuantizeByThreeRanges : Prop :=
  ∀ i : Byte,
    (i.toNat < 32 → quantize i = .black)
    ∧ (32 ≤ i.toNat → i.toNat ≤ 222 → quantize i = .red)
    ∧ (222 < i.toNat → quantize i = .white)

/-- The two plane bits of an intensity, in closed form; an LSB bit never stands without its MSB bit
(40_frame_encoder.md R94). -/
def Obligations.PlaneBitsOfAnIntensity : Prop :=
  ∀ i : Byte,
    levelCode (quantize i) = BitVec.ofBool (planeBit .msb i) ++ BitVec.ofBool (planeBit .lsb i)
    ∧ planeBit .msb i = decide (32 ≤ i.toNat)
    ∧ planeBit .lsb i = decide (32 ≤ i.toNat ∧ i.toNat ≤ 222)
    ∧ (planeBit .lsb i = true → planeBit .msb i = true)
    ∧ levelCode .black = 0b00#2 ∧ levelCode .white = 0b10#2 ∧ levelCode .red = 0b11#2

/-- The address map of the frame buffer: eight bases, eight lengths, contiguous in SEG_ORDER and 320,784 bytes in all
(20_memory.md R44). -/
def Obligations.SegmentAddressMap : Prop :=
  segBase .bottomRight .msb = 0 ∧ segBase .bottomRight .lsb = 40344
  ∧ segBase .bottomLeft .msb = 80688 ∧ segBase .bottomLeft .lsb = 120540
  ∧ segBase .topLeft .msb = 160392 ∧ segBase .topLeft .lsb = 200244
  ∧ segBase .topRight .msb = 240096 ∧ segBase .topRight .lsb = 280440
  ∧ segLength .bottomRight = 40344 ∧ segLength .topRight = 40344
  ∧ segLength .bottomLeft = 39852 ∧ segLength .topLeft = 39852
  ∧ bytesPerRow .bottomRight = 82 ∧ bytesPerRow .topRight = 82
  ∧ bytesPerRow .bottomLeft = 81 ∧ bytesPerRow .topLeft = 81
  ∧ (cfg.segOrder.map (fun s => segLength s.1)).sum = 320784 ∧ cfg.panelW * cfg.panelH / 4 = 320784

/-- The map from cells and planes to offsets and bits is a bijection onto the bits of the frame buffer: no two cells
share a bit in either plane, the planes share none, and every bit is some cell's (20_memory.md R46). -/
def Obligations.LocateIsABijection : Prop :=
  (∀ r c, r < 984 → c < 1304 →
    (locate r c).msbOffset < 320784 ∧ (locate r c).lsbOffset < 320784 ∧ (locate r c).bit < 8)
  ∧ (∀ r c r' c', r < 984 → c < 1304 → r' < 984 → c' < 1304 → (locate r c).bit = (locate r' c').bit →
      ((locate r c).msbOffset = (locate r' c').msbOffset → r = r' ∧ c = c')
      ∧ ((locate r c).lsbOffset = (locate r' c').lsbOffset → r = r' ∧ c = c')
      ∧ (locate r c).msbOffset ≠ (locate r' c').lsbOffset)
  ∧ (∀ k b, k < 320784 → b < 8 →
      ∃ r c, r < 984 ∧ c < 1304 ∧ (locate r c).bit = b
        ∧ ((locate r c).msbOffset = k ∨ (locate r c).lsbOffset = k))

/-! ### Pixel codes -/

/-- BLACK, WHITE and RED complete in every state: the level's bits enter the two plane bytes at bit 7-k of lane k, the
lane advances, and nothing else changes but that the code leaves the port. That a pixel code is executed by itself is
the model's choice (log entry 10; 30_encoding.md R61, 40_frame_encoder.md R95). -/
def Obligations.PixelCodeEntersBothPlanes : Prop :=
  ∀ (s : State) (v : Level),
    exec (pixelInstr v) s = .next
      { s with
        port := none
        lanes :=
          { lane := s.lanes.lane + 1#3
            msb := (if s.lanes.lane = 0#3 then 0#8 else s.lanes.msb)
              + BitVec.ofNat 8 ((if v = .black then 0 else 1) * 2 ^ (7 - s.lanes.lane.toNat))
            lsb := (if s.lanes.lane = 0#3 then 0#8 else s.lanes.lsb)
              + BitVec.ofNat 8 ((if v = .red then 1 else 0) * 2 ^ (7 - s.lanes.lane.toNat)) } }

/-- Eight pixel codes from lane 0 make the two packed bytes of eight cells, the first in bit 7 (30_encoding.md R62,
40_frame_encoder.md R95); executing them one by one is the model's choice (log entry 10). -/
def Obligations.EightPixelCodesMakeTwoBytes : Prop :=
  ∀ (s : State) (v : Nat → Level), s.lanes.lane = 0#3 →
    ∃ t, execAll ((List.range 8).map (fun k => pixelInstr (v k))) s = .next t
      ∧ t = { s with port := none, lanes := t.lanes } ∧ t.lanes.lane = 0#3
      ∧ ∀ k < 8, t.lanes.msb.getLsbD (7 - k) = levelBit .msb (v k)
          ∧ t.lanes.lsb.getLsbD (7 - k) = levelBit .lsb (v k)

/-- PIX_RESERVED_01 is refused in every state, no level has its code, and its code has no level (30_encoding.md R70,
40_frame_encoder.md R94). -/
def Obligations.ReservedPixelCodeIsRefused : Prop :=
  (∀ s : State, exec .pixReserved01 s = .refused .pixelReserved)
  ∧ (∀ v, levelCode v ≠ 0b01#2) ∧ levelOf 0b01#2 = none

/-! ### PACK -/

/-- A valid raster: PACK completes with Ok in any LINK_STATE, sets FB_VALID, and puts each cell's two bits where `locate`
says; every byte of the frame buffer holds a value, bytes outside it read as before, and nothing else changes. Another
raster: InvalidFrame, and nothing else changes (40_frame_encoder.md R97). -/
def Obligations.PackPutsEveryCellInItsPlace : Prop :=
  decodeCmd 0b001#3 = .pack
  ∧ (∀ s : State, s.phase = .idle → s.ras.valid = false → exec .pack s = .next (onlyResult .invalidFrame s))
  ∧ ∀ s : State, s.phase = .idle → s.ras.valid = true → Memory.wf s.fb →
    ∃ fb', exec .pack s = .next
        { s with fb := fb', fbValid := true, port := none, results := s.results ++ [.ok] }
      ∧ Memory.wf fb'
      ∧ (∀ k, k < 320784 → (readByte fb' k).isSome = true)
      ∧ (∀ k, 320784 ≤ k → readByte fb' k = readByte s.fb k)
      ∧ ∀ r c, r < 984 → c < 1304 → ∃ mo lo,
          readByte fb' (locate r c).msbOffset = some mo ∧ readByte fb' (locate r c).lsbOffset = some lo
          ∧ mo.getLsbD (locate r c).bit = planeBit .msb (s.ras.cell8 r c)
          ∧ lo.getLsbD (locate r c).bit = planeBit .lsb (s.ras.cell8 r c)

/-- The byte at index n of a segment packs the 8 cells of its quadrant row and column group, leftmost in bit 7; the bit
position can be taken from the raster column or from the quadrant column (20_memory.md R45). -/
def Obligations.FrameBytesFollowTheLayout : Prop :=
  (∀ (q : Quadrant) (c : Nat), quadCol q ≤ c → (c - quadCol q) % 8 = c % 8)
  ∧ ∀ (s t : State), s.ras.valid = true → exec .pack s = .next t →
    ∀ (q : Quadrant) (p : Plane) (n : Nat), n < 492 * (quadWidth q / 8) →
      ∃ b, readByte t.fb (segBase q p + n) = some b
        ∧ ∀ k < 8, b.getLsbD (7 - k)
            = planeBit p (s.ras.cell8 (quadRow q + n / (quadWidth q / 8))
                (quadCol q + 8 * (n % (quadWidth q / 8)) + k))

/-- `valid` is the shape and the domain, and PACK of a raster that is not valid completes with InvalidFrame and changes
nothing else (40_frame_encoder.md R98). -/
def Obligations.InvalidRasterChangesNothing : Prop :=
  (∀ ras : Raster, ras.valid = true ↔
    ras.rows = 984 ∧ ras.cols = 1304 ∧ ∀ r < 984, ∀ c < 1304, 0 ≤ ras.cell r c ∧ ras.cell r c ≤ 255)
  ∧ (∀ s : State, s.phase = .idle → s.ras.valid = false → exec .pack s = .next (onlyResult .invalidFrame s))

/-- Two valid rasters give the same frame exactly when every cell has the same level in both, whatever the states they
are packed in (40_frame_encoder.md R99). -/
def Obligations.FramesAgreeExactlyWhenLevelsDo : Prop :=
  ∀ s s' t t' : State, frameHeld s → frameHeld s' → s.ras.valid = true → s'.ras.valid = true →
    exec .pack s = .next t → exec .pack s' = .next t' →
    (t.fb = t'.fb ↔
      ∀ r < 984, ∀ c < 1304, quantize (s.ras.cell8 r c) = quantize (s'.ras.cell8 r c))

/-- UNPACK of the frame PACK leaves gives, for every cell, the level of the raster's cell, and rejects no such frame
(40_frame_encoder.md R102). -/
def Obligations.UnpackOfPackGivesTheLevels : Prop :=
  ∀ s : State, s.phase = .idle → s.ras.valid = true →
    ∃ t frame, exec .pack s = .next t ∧ memRead t.fb 0 320784 = some frame
      ∧ unpack frame = some (levelGrid s.ras.cell8)

/-- Every byte string of the right length in which no cell reads as 01 is the frame of some valid raster
(40_frame_encoder.md R102). -/
def Obligations.EveryLegalFrameIsPacked : Prop :=
  ∀ frame : List Byte, frame.length = 320784 →
    (∀ r < 984, ∀ c < 1304, unpackCell frame r c ≠ none) →
    ∃ ras : Raster, ras.valid = true ∧ packFrame ras.cell8 = frame

/-- UNPACK rejects a frame with a cell that reads as 01 (40_frame_encoder.md R101, 30_encoding.md R70). -/
def Obligations.UnpackRejectsTheReservedCode : Prop :=
  ∀ (frame : List Byte) (r c : Nat) (mo lo : Byte), r < 984 → c < 1304 →
    frame[(locate r c).msbOffset]? = some mo → frame[(locate r c).lsbOffset]? = some lo →
    mo.getLsbD (locate r c).bit = false → lo.getLsbD (locate r c).bit = true → unpack frame = none

/-! ### Acceptance of commands -/

/-- OPEN in Closed is accepted: LINK_FAULT None, PHASE OpenWait, nothing else (41_link_protocol.md R118). -/
def Obligations.OpenIsAcceptedInClosed : Prop :=
  decodeCmd 0b010#3 = .openLink
  ∧ ∀ s : State, s.phase = .idle → s.linkState = .closed →
      exec .openLink s = .next { s with port := none, linkFault := .none, phase := .openWait }

/-- TRANSMIT in Awake with FB_VALID = 1 is accepted: Transmitting, TxCmd, nothing else; with FB_VALID = 0, or not in
Awake, it is refused (41_link_protocol.md R121). -/
def Obligations.TransmitIsAcceptedAwakeWithAFrame : Prop :=
  decodeCmd 0b011#3 = .transmit
  ∧ (∀ s : State, s.phase = .idle → s.linkState = .awake → s.fbValid = true →
      exec .transmit s = .next { s with port := none, linkState := .transmitting, phase := .txCmd })
  ∧ (∀ s : State, s.phase = .idle → (s.linkState ≠ .awake ∨ s.fbValid = false) →
      exec .transmit s = .next (onlyResult .commandRefused s))

/-- CLOSE from Awake is accepted: PHASE ClCmd, LINK_STATE stays Awake, and stays so at every micro-step that does not
finish the command (41_link_protocol.md R126). -/
def Obligations.CloseIsAcceptedAwake : Prop :=
  decodeCmd 0b100#3 = .closeLink
  ∧ (∀ s : State, s.phase = .idle → s.linkState = .awake →
      exec .closeLink s = .next { s with port := none, phase := .clCmd })
  ∧ (∀ s t : State, (exec .sleep s = .next t ∨ exec .sack s = .next t) → t.phase ≠ .idle →
      t.linkState = s.linkState)

/-- CLOSE after a link failure completes with Ok and does nothing else; in Closed without a fault it is refused
(41_link_protocol.md R127). -/
def Obligations.CloseAfterAFailureDoesNothing : Prop :=
  (∀ s : State, s.phase = .idle → s.linkState = .closed → s.linkFault ≠ .none →
    exec .closeLink s = .next (onlyResult .ok s))
  ∧ (∀ s : State, s.phase = .idle → s.linkState = .closed → s.linkFault = .none →
    exec .closeLink s = .next (onlyResult .commandRefused s))

/-- The table of acceptance at PHASE Idle: PACK always; OPEN in Closed; TRANSMIT in Awake with FB_VALID = 1; CLOSE in
Awake, or in Closed after a failure; a reserved code never. What is not accepted completes with CommandRefused and changes
nothing else, and at another PHASE no command is looked at; Transmitting never coincides with Idle where PHASE and
LINK_STATE agree (41_link_protocol.md R117, 30_encoding.md R78). -/
def Obligations.CommandsAreAcceptedByTheTable : Prop :=
  ∀ s : State,
    (s.phase = .idle →
      (∃ t r, exec .pack s = .next t ∧ t.results = s.results ++ [r] ∧ r ≠ .commandRefused)
      ∧ (if s.linkState = .closed then ∃ t, exec .openLink s = .next t ∧ t.phase = .openWait
          else exec .openLink s = .next (onlyResult .commandRefused s))
      ∧ (if s.linkState = .awake ∧ s.fbValid = true then ∃ t, exec .transmit s = .next t ∧ t.phase = .txCmd
          else exec .transmit s = .next (onlyResult .commandRefused s))
      ∧ (if s.linkState = .awake then ∃ t, exec .closeLink s = .next t ∧ t.phase = .clCmd
          else if s.linkState = .closed ∧ s.linkFault ≠ .none then exec .closeLink s = .next (onlyResult .ok s)
          else exec .closeLink s = .next (onlyResult .commandRefused s))
      ∧ exec .cmdReserved000 s = .next (onlyResult .commandRefused s)
      ∧ exec .cmdReserved101 s = .next (onlyResult .commandRefused s)
      ∧ exec .cmdReserved110 s = .next (onlyResult .commandRefused s)
      ∧ exec .cmdReserved111 s = .next (onlyResult .commandRefused s))
    ∧ (s.phase ≠ .idle → ∀ op, fetch s ≠ .run (decodeCmd op))
    ∧ (phaseAgrees s → s.phase = .idle → s.linkState ≠ .transmitting)

/-- A token or a command executed outside its PHASE has no step: the machine stops (41_link_protocol.md R132); the fault
is the model's form of it (log entry 12). -/
def Obligations.OutOfPhaseThereIsNoStep : Prop :=
  ∀ (s : State) (i : Instr) (p : Phase), i.wf = true → phaseOfInstr i = some p → s.phase ≠ p →
    exec i s = .fault .noStep

/-! ### The micro-steps of the link engine -/

/-- RDY, OPEN's read: the ready byte makes the link Awake; any other byte and any transport error is LinkInitError
through the failure sequence; with nothing to read it waits (41_link_protocol.md R119). That the wait is a next state
equal to the present one is the model's choice (log entry 11: R112 c and 60_exceptions.md R173 say no step); the number
of the byte is log entry 2. -/
def Obligations.OpenReadsTheReadyByte : Prop :=
  ∀ s : State, s.phase = .openWait →
    (∀ rest, s.failNext = none → s.tOpen = true → s.rxq = 0x72#8 :: rest →
      exec .rdy s = .next { onlyResult .ok s with rxq := rest, linkState := .awake, phase := .idle })
    ∧ (∀ b rest, s.failNext = none → s.tOpen = true → s.rxq = b :: rest → b ≠ 0x72#8 →
      exec .rdy s = .next (afterFailure .linkInitError .linkInitError { s with rxq := rest }))
    ∧ (∀ f, s.failNext = some f →
      exec .rdy s = .next (afterFailure .linkInitError .linkInitError { s with failNext := none }))
    ∧ (s.failNext = none → s.tOpen = false →
      exec .rdy s = .next (afterFailure .linkInitError .linkInitError { s with freeCtr := s.freeCtr + 1 }))
    ∧ (s.failNext = none → s.tOpen = true → s.rxq = [] → exec .rdy s = .next s)

/-- BEGIN, TRANSMIT's first write: 0x72 goes out and PHASE is TxData, or TransportError with the error's info
(41_link_protocol.md R122). -/
def Obligations.TransmitWritesTheBeginByte : Prop :=
  ∀ s : State, s.phase = .txCmd →
    (s.failNext = none → s.tOpen = true →
      exec .beginTx s = .next { s with txh := s.txh ++ [0x72#8], phase := .txData })
    ∧ (∀ f, s.failNext = some f → s.tOpen = true →
      exec .beginTx s = .next (afterFailure (.transportError f.info) .transportError
        { s with failNext := none, txh := s.txh ++ [0x72#8].take f.sent }))
    ∧ (∀ f, s.failNext = some f → s.tOpen = false →
      exec .beginTx s = .next (afterFailure (.transportError f.info) .transportError { s with failNext := none }))
    ∧ (s.failNext = none → s.tOpen = false → ∃ info,
      exec .beginTx s = .next (afterFailure (.transportError info) .transportError
        { s with freeCtr := s.freeCtr + 1 }))

/-- FRAME, TRANSMIT's payload write: what is fetched at TxData is the bytes FB[0] to FB[320783], in that order; a payload
goes out whole and PHASE is TxAck, or some first bytes of it and TransportError (41_link_protocol.md R123). -/
def Obligations.TransmitWritesTheFrameBuffer : Prop :=
  (∀ (s : State) (frame : List Byte), s.phase = .txData → Memory.wf s.fb → memRead s.fb 0 320784 = some frame →
    fetch s = .run (.frame frame) ∧ frame.length = 320784 ∧ (∀ k < 320784, readByte s.fb k = frame[k]?))
  ∧ ∀ (s : State) (frame : List Byte), s.phase = .txData → frame.length = 320784 →
    (s.failNext = none → s.tOpen = true →
      exec (.frame frame) s = .next { s with txh := s.txh ++ frame, phase := .txAck })
    ∧ (∀ f, s.failNext = some f → s.tOpen = true →
      exec (.frame frame) s = .next (afterFailure (.transportError f.info) .transportError
        { s with failNext := none, txh := s.txh ++ frame.take f.sent }))
    ∧ (∀ f, s.failNext = some f → s.tOpen = false →
      exec (.frame frame) s = .next (afterFailure (.transportError f.info) .transportError
        { s with failNext := none }))
    ∧ (s.failNext = none → s.tOpen = false → ∃ info,
      exec (.frame frame) s = .next (afterFailure (.transportError info) .transportError
        { s with freeCtr := s.freeCtr + 1 }))

/-- A FRAME term that is not 320,784 bytes is no instruction of the hardware: it is refused in every state
(30_encoding.md R63; the refusal is the model's form of it, log entry 25). -/
def Obligations.APayloadOfAnotherLengthIsRefused : Prop :=
  ∀ (s : State) (payload : List Byte), payload.length ≠ 320784 → exec (.frame payload) s = .refused .malformedFrame

/-- FACK, TRANSMIT's read: 0x72 makes the link Awake again; another byte is FrameNotAcknowledged; a transport error is
TransportError with its info; with nothing to read it waits (41_link_protocol.md R124). That the wait is a next state
equal to the present one is the model's choice (log entry 11: R112 c and 60_exceptions.md R173 say no step); the number
of the byte is log entry 2. -/
def Obligations.TransmitReadsTheAcknowledgment : Prop :=
  ∀ s : State, s.phase = .txAck →
    (∀ rest, s.failNext = none → s.tOpen = true → s.rxq = 0x72#8 :: rest →
      exec .fack s = .next { onlyResult .ok s with rxq := rest, linkState := .awake, phase := .idle })
    ∧ (∀ b rest, s.failNext = none → s.tOpen = true → s.rxq = b :: rest → b ≠ 0x72#8 →
      exec .fack s = .next (afterFailure .frameNotAcknowledged .frameNotAcknowledged { s with rxq := rest }))
    ∧ (∀ f, s.failNext = some f →
      exec .fack s = .next (afterFailure (.transportError f.info) .transportError { s with failNext := none }))
    ∧ (s.failNext = none → s.tOpen = false → ∃ info,
      exec .fack s = .next (afterFailure (.transportError info) .transportError
        { s with freeCtr := s.freeCtr + 1 }))
    ∧ (s.failNext = none → s.tOpen = true → s.rxq = [] → exec .fack s = .next s)

/-- SLEEP, CLOSE's write: 0x73 goes out and PHASE is ClAck, or the command finishes with TransportError and the read is
skipped (41_link_protocol.md R128). -/
def Obligations.CloseWritesTheSleepByte : Prop :=
  ∀ s : State, s.phase = .clCmd →
    (s.failNext = none → s.tOpen = true →
      exec .sleep s = .next { s with txh := s.txh ++ [0x73#8], phase := .clAck })
    ∧ (∀ f, s.failNext = some f → s.tOpen = true →
      exec .sleep s = .next (afterFailure (.transportError f.info) .transportError
        { s with failNext := none, txh := s.txh ++ [0x73#8].take f.sent }))
    ∧ (∀ f, s.failNext = some f → s.tOpen = false →
      exec .sleep s = .next (afterFailure (.transportError f.info) .transportError { s with failNext := none }))
    ∧ (s.failNext = none → s.tOpen = false → ∃ info,
      exec .sleep s = .next (afterFailure (.transportError info) .transportError
        { s with freeCtr := s.freeCtr + 1 }))

/-- SACK, CLOSE's read: in every case but the wait the transport is closed and LINK_STATE is Closed; LINK_FAULT is None
after 0x73, and the error's kind otherwise (41_link_protocol.md R129, R130). That the wait is a next state equal to the
present one is the model's choice (log entry 11: R112 c and 60_exceptions.md R173 say no step); the number of the byte is
log entry 2. -/
def Obligations.CloseFinishesWithTheTransportClosed : Prop :=
  ∀ s : State, s.phase = .clAck →
    (∀ rest, s.failNext = none → s.tOpen = true → s.rxq = 0x73#8 :: rest →
      exec .sack s = .next (afterFailure .ok .none { s with rxq := rest }))
    ∧ (∀ b rest, s.failNext = none → s.tOpen = true → s.rxq = b :: rest → b ≠ 0x73#8 →
      exec .sack s = .next (afterFailure .sleepNotAcknowledged .sleepNotAcknowledged { s with rxq := rest }))
    ∧ (∀ f, s.failNext = some f →
      exec .sack s = .next (afterFailure (.transportError f.info) .transportError { s with failNext := none }))
    ∧ (s.failNext = none → s.tOpen = false → ∃ info,
      exec .sack s = .next (afterFailure (.transportError info) .transportError
        { s with freeCtr := s.freeCtr + 1 }))
    ∧ (s.failNext = none → s.tOpen = true → s.rxq = [] → exec .sack s = .next s)

/-- Whenever an instruction delivers a link error, the failure sequence has run whole: transport closed and the call
counted, LINK_STATE Closed, LINK_FAULT the kind, PHASE Idle, RAS and the frame buffer untouched, and nothing written but
first bytes of the failing write, at its own PHASE; InvalidFrame and CommandRefused do not run it (60_exceptions.md
R170). -/
def Obligations.ErrorsRunTheFailureSequence : Prop :=
  ∀ (i : Instr) (s t : State), exec i s = .next t →
    (∀ e, t.results = s.results ++ [linkErrorResult e] →
      t.tOpen = false ∧ t.tcloses = s.tcloses + 1 ∧ t.linkState = .closed ∧ t.linkFault = linkErrorFault e
      ∧ t.phase = .idle ∧ t.fb = s.fb ∧ t.fbValid = s.fbValid ∧ t.ras = s.ras
      ∧ (t.txh = s.txh ∨ ∃ p bytes k, encode i = .tx p bytes ∧ s.phase = p ∧ t.txh = s.txh ++ bytes.take k))
    ∧ (∀ r, r = .invalidFrame ∨ r = .commandRefused → t.results = s.results ++ [r] → t = onlyResult r s)

/-- A wait is not an error: at a read with an open transport, nothing received, no failure due and a silent environment,
any number of steps leaves the state as it is (60_exceptions.md R173; the unchanged state is the model's form of "no
enabled step", log entry 11). -/
def Obligations.AWaitNeverEnds : Prop :=
  ∀ (s : State) (n : Nat), waiting s → s.sched = [] → stepN n s = .next s

/-- An out-of-band close ends a wait: the pending read fails, and the command ends by its failure sequence, with
LinkInitError for OPEN and TransportError otherwise (70_reset_and_hazards.md R203). -/
def Obligations.OutOfBandCloseEndsAWait : Prop :=
  ∀ s : State, waiting s → s.sched = [.env .oobClose] →
    ∃ info r f, stepN 2 s = .next (afterFailure r f
        { s with sched := [], freeCtr := s.freeCtr + 1 })
      ∧ (s.phase = .openWait → r = .linkInitError ∧ f = .linkInitError)
      ∧ (s.phase ≠ .openWait → r = .transportError info ∧ f = .transportError)

/-- The steps of the environment, each possible before any micro-step: a byte of the device at the tail of RXQ, its
consuming of bytes, a failure to come, an out-of-band close, which TCLOSES does not count, an attachment in Closed and Idle,
and the host's raster and command (41_link_protocol.md R115, 10_state.md R27). The pending failure as a field, and the
schedule, are the model's (log entries 1, 15); so is that any other step of the environment does nothing (log entry 13). -/
def Obligations.EnvironmentSteps : Prop :=
  ∀ (s : State) (e : EnvStep) (rest : List Turn), s.sched = .env e :: rest →
    ∃ t, step s = .next t ∧ t = { t with sched := rest }
      ∧ (∀ b, e = .devSend b → t = if s.tOpen then { s with sched := rest, rxq := s.rxq ++ [b] } else { s with sched := rest })
      ∧ (e = .devTake → t = { s with sched := rest })
      ∧ (∀ f, e = .fail f → t = { s with sched := rest, failNext := some f })
      ∧ (e = .oobClose → t = { s with sched := rest, tOpen := false })
      ∧ (∀ rx, e = .attach rx → t = if s.linkState = .closed ∧ s.phase = .idle
          then { s with sched := rest, tOpen := true, rxq := rx } else { s with sched := rest })
      ∧ (∀ ras, e = .present ras → t = if s.phase = .idle ∧ s.port = none
          then { s with sched := rest, ras := ras } else { s with sched := rest })
      ∧ (∀ op, e = .issue op → t = if s.phase = .idle ∧ s.port = none
          then { s with sched := rest, port := some (.cmd op) } else { s with sched := rest })

/-! ### Frames -/

/-- The frame of the commands: RAS, the transport, the lanes and the environment's fields are unchanged; the frame buffer
is unchanged except by PACK, and outside offsets 0 to 320783 by PACK too; LINK_STATE is unchanged except by TRANSMIT,
LINK_FAULT except by OPEN, PHASE except by OPEN, TRANSMIT and CLOSE (40_frame_encoder.md R97; 41_link_protocol.md R117,
R118, R121, R126). -/
def Obligations.CommandFrame : Prop :=
  ∀ (i : Instr) (s t : State), phaseOfInstr i = some .idle → exec i s = .next t →
    t.ras = s.ras ∧ t.tOpen = s.tOpen ∧ t.rxq = s.rxq ∧ t.txh = s.txh ∧ t.tcloses = s.tcloses ∧ t.lanes = s.lanes
    ∧ t.failNext = s.failNext ∧ t.freeCtr = s.freeCtr ∧ t.sched = s.sched
    ∧ (i ≠ .pack → t.fbValid = s.fbValid ∧ ∀ a, readByte t.fb a = readByte s.fb a)
    ∧ (Memory.wf s.fb → ∀ a, 320784 ≤ a → readByte t.fb a = readByte s.fb a)
    ∧ (i ≠ .transmit → t.linkState = s.linkState)
    ∧ (i ≠ .openLink → t.linkFault = s.linkFault)
    ∧ (i ≠ .openLink → i ≠ .transmit → i ≠ .closeLink → t.phase = s.phase)

/-- The frame of the wire tokens: RAS, every byte of the frame buffer, FB_VALID, the lanes and the schedule are
unchanged; a token that is read writes nothing to the link and takes at most the head of RXQ, and one that is written
leaves RXQ alone and writes at most its own bytes (41_link_protocol.md R119, R125, R131). -/
def Obligations.TokenFrame : Prop :=
  ∀ (i : Instr) (s t : State) (p : Phase) (bytes : List Byte), exec i s = .next t →
    (encode i = .rx p bytes ∨ encode i = .tx p bytes) →
    t.ras = s.ras ∧ t.fbValid = s.fbValid ∧ t.lanes = s.lanes ∧ t.sched = s.sched
    ∧ (∀ a, readByte t.fb a = readByte s.fb a)
    ∧ (encode i = .rx p bytes → t.txh = s.txh ∧ (t.rxq = s.rxq ∨ ∃ b, s.rxq = b :: t.rxq))
    ∧ (encode i = .tx p bytes → t.rxq = s.rxq ∧ ∃ k, t.txh = s.txh ++ bytes.take k)

/-! ### The whole machine -/

/-- Every step, of the block or of the environment, keeps the invariant: PHASE and LINK_STATE agree, a live link has no
fault, the frame buffer holds a whole frame exactly when FB_VALID = 1, TRANSMIT has a frame to send, and nothing stands
at the port while a command is in progress (41_link_protocol.md R116; 10_state.md R24, R27). -/
def Obligations.EveryStepKeepsTheInvariant : Prop :=
  ∀ s t : State, RunInv s → step s = .next t → RunInv t

/-- A live link has an open transport, and a failed one a closed transport: every step keeps this except an out-of-band
close and an attachment (41_link_protocol.md R116; that Attach must be left out is the model's reading, log entry 19). -/
def Obligations.StepsKeepTheTransportAgreement : Prop :=
  ∀ s t : State, noTransportChange s → transportAgrees s → step s = .next t → transportAgrees t

/-- From a state of the invariant with no pixel code at the port a step never stops the machine, and its next state is
such a state again: no error result, wait or refusal of a command ends a run (41_link_protocol.md R117, R132;
60_exceptions.md R173). At a wait the spec has no enabled step (R173); that the model then answers the present state as
the next one is its own choice (log entry 11). -/
def Obligations.TheMachineNeverStops : Prop :=
  ∀ s : State, RunInv s → noPixelCode s → ∃ t, step s = .next t ∧ RunInv t ∧ noPixelCode t

/-- A step delivers at most one result, and a result is delivered only as the block returns to PHASE Idle with nothing at
its port (60_exceptions.md R168; 00_scope.md R6). -/
def Obligations.AStepDeliversAtMostOneResult : Prop :=
  ∀ s t : State, step s = .next t →
    t.results = s.results ∨ (t.phase = .idle ∧ t.port = none ∧ ∃ r, t.results = s.results ++ [r])

/-- The block closes the transport at most once in a step, and only as it delivers the result of a link command with
LINK_STATE Closed and PHASE Idle (41_link_protocol.md R114, R130; 60_exceptions.md R170). -/
def Obligations.AClosingStepEndsTheSession : Prop :=
  ∀ s t : State, step s = .next t →
    t.tcloses = s.tcloses
    ∨ (t.tcloses = s.tcloses + 1 ∧ t.tOpen = false ∧ t.linkState = .closed ∧ t.phase = .idle
      ∧ ∃ r, t.results = s.results ++ [r])

/-- RXQ is a queue: a step leaves it, takes its head at one of the three reads, or adds one byte at its tail; only an
attachment replaces it, in Closed and Idle. No byte is dropped (10_state.md R29, 70_reset_and_hazards.md R204). -/
def Obligations.ReceivedBytesAreKeptInOrder : Prop :=
  ∀ s t : State, step s = .next t →
    t.rxq = s.rxq
    ∨ (∃ b, s.rxq = b :: t.rxq ∧ (s.phase = .openWait ∨ s.phase = .txAck ∨ s.phase = .clAck))
    ∨ (∃ b, t.rxq = s.rxq ++ [b] ∧ s.tOpen = true)
    ∨ (∃ rx rest, s.sched = .env (.attach rx) :: rest ∧ s.linkState = .closed ∧ s.phase = .idle ∧ t.rxq = rx)

/-- The block writes to the link only at TxCmd, TxData and ClCmd, and what it writes is kept for ever in order
(10_state.md R27, R28; 30_encoding.md R65; 41_link_protocol.md R122, R123, R128). -/
def Obligations.BytesAreWrittenAtThreePhasesOnly : Prop :=
  ∀ s t : State, step s = .next t →
    t.txh = s.txh
    ∨ (∃ k, s.phase = .txCmd ∧ t.txh = s.txh ++ [0x72#8].take k)
    ∨ (∃ k frame, s.phase = .txData ∧ memRead s.fb 0 320784 = some frame ∧ t.txh = s.txh ++ frame.take k)
    ∨ (∃ k, s.phase = .clCmd ∧ t.txh = s.txh ++ [0x73#8].take k)

/-- The frame buffer changes in a step only when the block runs PACK on a valid raster at PHASE Idle; it cannot change
while a TRANSMIT is in progress (10_state.md R24, 20_memory.md R54). -/
def Obligations.OnlyAValidPackChangesTheFrameBuffer : Prop :=
  ∀ s t : State, step s = .next t →
    (t.fb = s.fb ∧ t.fbValid = s.fbValid)
    ∨ (s.phase = .idle ∧ s.port = some (.cmd 0b001#3) ∧ s.ras.valid = true
      ∧ t.fb = cellsFrom 0 (packFrame s.ras.cell8) ++ s.fb.dropWhile (fun x => decide (x.1 < 320784))
      ∧ t.fbValid = true)

/-! ### The device and the session -/

/-- With the conforming device at the far end of a quiet link, an accepted OPEN, TRANSMIT and CLOSE each complete with Ok
and leave what the next command's clause assumes: the link quiet, the device idle and the frame buffer as it was; after a
CLOSE the block is Idle and Closed with no fault and the transport closed, once, and the device asleep, having consumed
all that was sent (41_link_protocol.md R135). Two things are the model's choice: that this device answers in the round in
which the last byte of a message came, where R135 leaves the time open (log entry 23), and the rounds a command is given
(log entry 22). -/
def Obligations.ConformingDeviceMakesCommandsSucceed : Prop :=
  ∀ w : World, LinkQuiet w →
    (w.machine.linkState = .closed → w.device.mode = .started →
      ∃ w', issueCommand 0b010#3 w = some (.ok, w') ∧ LinkQuiet w' ∧ w'.machine.linkState = .awake
        ∧ w'.device.mode = .idle ∧ w'.machine.fb = w.machine.fb ∧ w'.machine.fbValid = w.machine.fbValid
        ∧ w'.machine.txh = w.machine.txh)
    ∧ (∀ frame, w.machine.linkState = .awake → w.machine.fbValid = true →
        memRead w.machine.fb 0 320784 = some frame → w.device.mode = .idle →
      ∃ w', issueCommand 0b011#3 w = some (.ok, w') ∧ LinkQuiet w' ∧ w'.machine.linkState = .awake
        ∧ w'.device.mode = .idle ∧ w'.machine.fb = w.machine.fb ∧ w'.machine.fbValid = true
        ∧ w'.machine.txh = w.machine.txh ++ encodeMessage (.frame frame))
    ∧ (w.machine.linkState = .awake → w.device.mode = .idle →
      ∃ w', issueCommand 0b100#3 w = some (.ok, w') ∧ w'.machine.linkState = .closed ∧ w'.device.mode = .asleep
        ∧ w'.machine.linkFault = .none ∧ w'.machine.phase = .idle ∧ w'.machine.port = none ∧ w'.machine.sched = []
        ∧ w'.machine.failNext = none ∧ w'.machine.tOpen = false ∧ w'.machine.tcloses = w.machine.tcloses + 1
        ∧ w'.machine.rxq = [] ∧ w'.device.taken = w'.machine.txh.length
        ∧ w'.machine.txh = w.machine.txh ++ encodeMessage .sleep)

/-- With the conforming device newly reset at the far end, no failure due and a silent environment otherwise, a session
over an empty fresh transport that sends any number of valid rasters completes with Ok, the device asleep and the transport
closed once (42_session.md R149 a, R147; 41_link_protocol.md R135). Two things are the model's choice: when the device
answers (log entry 23) and the rounds a command is given (log entry 22). -/
def Obligations.AConformingSessionSucceeds : Prop :=
  ∀ (body : List BodyOp) (w : World),
    w.machine.phase = .idle → w.machine.linkState = .closed → w.machine.port = none → w.machine.sched = [] →
    w.machine.failNext = none → w.device.mode = .started → w.device.taken = w.machine.txh.length →
    (∀ o ∈ body, (bodyRaster o).valid = true) →
    ∃ w', session [] body w = some (.ok, w') ∧ w'.device.mode = .asleep ∧ w'.machine.tOpen = false
      ∧ w'.machine.tcloses = w.machine.tcloses + 1 ∧ w'.machine.linkState = .closed
      ∧ w'.machine.linkFault = .none

/-- A session that ends has closed the transport exactly once, whatever its body, whatever the device and the
environment did, and leaves the link Closed and Idle; the transport stays closed unless the host attached another
(41_link_protocol.md R134; 42_session.md R145, R149). -/
def Obligations.ASessionClosesExactlyOnce : Prop :=
  ∀ (rx : List Byte) (body : List BodyOp) (w w' : World) (r : Result),
    w.machine.phase = .idle → w.machine.linkState = .closed → w.machine.port = none →
    session rx body w = some (r, w') →
    w'.machine.tcloses = w.machine.tcloses + 1 ∧ w'.machine.linkState = .closed ∧ w'.machine.phase = .idle
    ∧ ((∀ rx', Turn.env (.attach rx') ∉ w.machine.sched) → w'.machine.tOpen = false)

/-- A session that surfaces Ok has put on the wire exactly BEGIN and the packed frame of each raster of its body, in
order, and then SLEEP, whatever the device did (41_link_protocol.md R134, 30_encoding.md R66). -/
def Obligations.ASuccessfulSessionSendsItsFrames : Prop :=
  ∀ (rx : List Byte) (body : List BodyOp) (w w' : World),
    w.machine.phase = .idle → w.machine.linkState = .closed → w.machine.port = none →
    session rx body w = some (.ok, w') →
    w'.machine.txh = w.machine.txh
      ++ body.flatMap (fun o => encodeMessage (.frame (packFrame (bodyRaster o).cell8)))
      ++ encodeMessage .sleep

/-- A session whose body has valid rasters and then an invalid one surfaces InvalidFrame, whatever its CLOSE then did,
and what goes out is the whole messages of the valid rasters and, of what the CLOSE sends, at most the sleep byte; unless
an earlier command failed: its OPEN, with nothing sent, or the TRANSMIT of one of the valid rasters, whose error is then
surfaced, with the messages before it, at most its own, and nothing after it sent (42_session.md R142, R143, R145,
R146). -/
def Obligations.AnInvalidRasterIsSurfacedFirst : Prop :=
  ∀ (rx : List Byte) (before : List BodyOp) (o : BodyOp) (body : List BodyOp) (w w' : World) (r : Result),
    w.machine.phase = .idle → w.machine.linkState = .closed → w.machine.port = none →
    (∀ b ∈ before, (bodyRaster b).valid = true) → (bodyRaster o).valid = false →
    session rx (before ++ o :: body) w = some (r, w') →
    (r = .linkInitError ∧ w'.machine.txh = w.machine.txh)
    ∨ (∃ sent failed rest k, before = sent ++ failed :: rest
      ∧ (r = .frameNotAcknowledged ∨ ∃ info, r = .transportError info)
      ∧ w'.machine.txh = w.machine.txh
        ++ sent.flatMap (fun b => encodeMessage (.frame (packFrame (bodyRaster b).cell8)))
        ++ (encodeMessage (.frame (packFrame (bodyRaster failed).cell8))).take k)
    ∨ (r = .invalidFrame ∧ ∃ k, w'.machine.txh = w.machine.txh
        ++ before.flatMap (fun b => encodeMessage (.frame (packFrame (bodyRaster b).cell8)))
        ++ (encodeMessage .sleep).take k)
end

