-- ==== Sys2Proof/Laws/Memory.lean ====
section
/-! SUPPORT. What the operations on the frame buffer do: reads after writes, and the canonical form. -/

namespace Sys2Proof.Machine

theorem cellsFrom_length (bytes : List Byte) (k : Nat) : (cellsFrom k bytes).length = bytes.length := by
  induction bytes generalizing k with
  | nil => rfl
  | cons b rest ih => simp [cellsFrom, ih]

theorem cellsFrom_offsets (bytes : List Byte) (k : Nat) :
    (cellsFrom k bytes).map (·.1) = List.range' k bytes.length := by
  induction bytes generalizing k with
  | nil => rfl
  | cons b rest ih => simp [cellsFrom, ih, List.range'_succ]

theorem cellsFrom_bytes (bytes : List Byte) (k : Nat) : (cellsFrom k bytes).map (·.2) = bytes := by
  induction bytes generalizing k with
  | nil => rfl
  | cons b rest ih => simp [cellsFrom, ih]

theorem cellsFrom_append (a b : List Byte) (k : Nat) :
    cellsFrom k (a ++ b) = cellsFrom k a ++ cellsFrom (k + a.length) b := by
  induction a generalizing k with
  | nil => rfl
  | cons x rest ih => simp [cellsFrom, ih, Nat.add_assoc, Nat.add_comm 1]

theorem mem_cellsFrom {bytes : List Byte} {k : Nat} {c : Host.Cell} (h : c ∈ cellsFrom k bytes) :
    k ≤ c.1 ∧ c.1 < k + bytes.length := by
  induction bytes generalizing k with
  | nil => simp [cellsFrom] at h
  | cons b rest ih =>
    simp only [cellsFrom, List.mem_cons] at h
    rcases h with rfl | h
    · simp
    · have := ih h
      simp only [List.length_cons]
      omega

theorem cellsFrom_wf (bytes : List Byte) (k : Nat) : Memory.wf (cellsFrom k bytes) := by
  induction bytes generalizing k with
  | nil => simp [cellsFrom]
  | cons b rest ih =>
    simp only [cellsFrom, List.pairwise_cons]
    exact ⟨fun c hc => (mem_cellsFrom hc).1, ih _⟩

theorem readByte_nil (j : Nat) : readByte [] j = none := rfl

theorem readByte_cons (x : Host.Cell) (m : Memory) (j : Nat) :
    readByte (x :: m) j = if j = x.1 then some x.2 else readByte m j := by
  obtain ⟨k, b⟩ := x
  by_cases h : j = k
  · simp [readByte, h]
  · have : (j == k) = false := by simp [h]
    simp [readByte, List.lookup_cons, h, this]

theorem readByte_cellsFrom (bytes : List Byte) (k j : Nat) :
    readByte (cellsFrom k bytes) j = if k ≤ j then bytes[j - k]? else none := by
  induction bytes generalizing k with
  | nil => simp [cellsFrom, readByte_nil]
  | cons b rest ih =>
    simp only [cellsFrom, readByte_cons, ih]
    by_cases hj : j = k
    · simp [hj]
    · by_cases hk : k < j
      · have e : j - k = (j - (k + 1)) + 1 := by omega
        rw [if_neg hj, if_pos (by omega), if_pos (by omega), e, List.getElem?_cons_succ]
      · rw [if_neg hj, if_neg (by omega), if_neg (by omega)]

theorem readByte_append (a b : Memory) (j : Nat) : readByte (a ++ b) j = (readByte a j).or (readByte b j) := by
  induction a with
  | nil => simp [readByte_nil]
  | cons x rest ih =>
    by_cases h : j = x.1 <;> simp [readByte_cons, ih, h]

theorem readByte_none {m : Memory} {j : Nat} (h : ∀ c ∈ m, c.1 ≠ j) : readByte m j = none := by
  induction m with
  | nil => rfl
  | cons x rest ih =>
    rw [readByte_cons, if_neg (fun e => h x (by simp) e.symm)]
    exact ih fun c hc => h c (by simp [hc])

/-- Below its cut the front of a rising memory reads as the memory; from the cut on it lists nothing. -/
theorem readByte_takeWhile {m : Memory} (hm : Memory.wf m) (k j : Nat) :
    readByte (m.takeWhile (fun c => decide (c.1 < k))) j = if j < k then readByte m j else none := by
  induction m with
  | nil => simp [readByte_nil]
  | cons x rest ih =>
    obtain ⟨hx, hr⟩ := List.pairwise_cons.1 hm
    by_cases hk : x.1 < k
    · simp only [List.takeWhile_cons, hk, decide_true, if_true, readByte_cons, ih hr]
      by_cases hj : j = x.1
      · simp [hj, hk]
      · simp [hj]
    · simp only [List.takeWhile_cons, hk, decide_false, Bool.false_eq_true, if_false, readByte_nil]
      by_cases hj : j < k
      · rw [if_pos hj]
        refine (readByte_none fun c hc => ?_).symm
        rcases List.mem_cons.1 hc with rfl | hc
        · omega
        · have := hx c hc; omega
      · rw [if_neg hj]

/-- From its cut on the rest of a rising memory reads as the memory; below the cut it lists nothing. -/
theorem readByte_dropWhile {m : Memory} (hm : Memory.wf m) (k j : Nat) :
    readByte (m.dropWhile (fun c => decide (c.1 < k))) j = if k ≤ j then readByte m j else none := by
  induction m with
  | nil => simp [readByte_nil]
  | cons x rest ih =>
    obtain ⟨hx, hr⟩ := List.pairwise_cons.1 hm
    by_cases hk : x.1 < k
    · simp only [List.dropWhile_cons, hk, decide_true, if_true, readByte_cons, ih hr]
      by_cases hj : k ≤ j
      · rw [if_pos hj, if_pos hj, if_neg (by omega)]
      · rw [if_neg hj, if_neg hj]
    · simp only [List.dropWhile_cons, hk, decide_false, Bool.false_eq_true, if_false]
      by_cases hj : k ≤ j
      · rw [if_pos hj]
      · rw [if_neg hj]
        refine readByte_none fun c hc => ?_
        rcases List.mem_cons.1 hc with rfl | hc
        · omega
        · have := hx c hc; omega

/-- A read after a write: the bytes written inside the window, and every byte outside it as before. -/
theorem readByte_memWrite {m : Memory} (hm : Memory.wf m) (k : Nat) (bytes : List Byte) (j : Nat) :
    readByte (memWrite m k bytes) j
      = if k ≤ j ∧ j < k + bytes.length then bytes[j - k]? else readByte m j := by
  simp only [memWrite, readByte_append, readByte_takeWhile hm, readByte_dropWhile hm, readByte_cellsFrom]
  by_cases h1 : j < k
  · have h2 : ¬ k ≤ j := by omega
    have h3 : ¬ k + bytes.length ≤ j := by omega
    simp [h1, h2, h3]
  · have h2 : k ≤ j := by omega
    by_cases h3 : j < k + bytes.length
    · have h4 : ¬ k + bytes.length ≤ j := by omega
      have h5 : j - k < bytes.length := by omega
      simp [h1, h2, h3, h5]
    · have h4 : k + bytes.length ≤ j := by omega
      have h5 : bytes.length ≤ j - k := by omega
      simp [h1, h2, h3, h4, h5]

theorem memWrite_wf {m : Memory} (hm : Memory.wf m) (k : Nat) (bytes : List Byte) :
    Memory.wf (memWrite m k bytes) := by
  have below : ∀ c ∈ m.takeWhile (fun c => decide (c.1 < k)), c.1 < k := fun c hc => by
    simpa using List.mem_takeWhile_imp hc
  have above : ∀ c ∈ m.dropWhile (fun c => decide (c.1 < k + bytes.length)), k + bytes.length ≤ c.1 := by
    clear below
    induction m with
    | nil => simp
    | cons x rest ih =>
      obtain ⟨hx, hr⟩ := List.pairwise_cons.1 hm
      intro c hc
      by_cases hk : x.1 < k + bytes.length
      · simp only [List.dropWhile_cons, hk, decide_true, if_true] at hc
        exact ih hr c hc
      · simp only [List.dropWhile_cons, hk, decide_false, Bool.false_eq_true, if_false] at hc
        rcases List.mem_cons.1 hc with rfl | hc
        · omega
        · have := hx c hc; omega
  have inside : ∀ c ∈ cellsFrom k bytes, k ≤ c.1 ∧ c.1 < k + bytes.length := fun c hc => mem_cellsFrom hc
  refine List.pairwise_append.2 ⟨List.pairwise_append.2 ⟨hm.sublist (List.takeWhile_sublist _),
    cellsFrom_wf _ _, ?_⟩, hm.sublist (List.dropWhile_sublist _), ?_⟩
  · intro a ha b hb
    have := below a ha
    have := inside b hb
    omega
  · intro a ha b hb
    have hb := above b hb
    rcases List.mem_append.1 ha with ha | ha
    · have := below a ha; omega
    · have := inside a ha; omega

/-- What a read gathers: the first n entries, if their offsets are k, k + 1, and so on. -/
theorem consecutive_eq (k n : Nat) (m : Memory) :
    consecutive k n m = if (m.take n).map (·.1) = List.range' k n then some ((m.take n).map (·.2)) else none := by
  induction n generalizing k m with
  | zero => simp [consecutive]
  | succ n ih =>
    cases m with
    | nil => simp [consecutive, List.range'_succ]
    | cons c rest =>
      simp only [consecutive, ih, List.take_succ_cons, List.map_cons, List.range'_succ, List.cons.injEq]
      by_cases hc : c.1 = k
      · rw [if_pos hc]
        by_cases hr : (rest.take n).map (·.1) = List.range' (k + 1) n
        · rw [if_pos hr, if_pos ⟨hc, hr⟩]
        · rw [if_neg hr, if_neg (fun h => hr h.2)]
      · rw [if_neg hc, if_neg (fun h => hc h.1)]

/-- `memRead` in one line: the window of n entries from offset k on, if its offsets are k, k + 1, and so on. -/
theorem memRead_eq (m : Memory) (k n : Nat) :
    memRead m k n
      = if ((m.dropWhile (fun c => decide (c.1 < k))).take n).map (·.1) = List.range' k n
        then some (((m.dropWhile (fun c => decide (c.1 < k))).take n).map (·.2)) else none := by
  rw [memRead, consecutive_eq]

/-- A read of bytes that stand from offset 0 on, whatever follows them. -/
theorem memRead_cellsFrom (bytes : List Byte) (rest : Memory) :
    memRead (cellsFrom 0 bytes ++ rest) 0 bytes.length = some bytes := by
  have hd : ∀ m : Memory, m.dropWhile (fun c => decide (c.1 < 0)) = m := by
    intro m; cases m <;> simp
  have ht : (cellsFrom 0 bytes ++ rest).take bytes.length = cellsFrom 0 bytes := by
    have := cellsFrom_length bytes 0
    rw [List.take_append_of_le_length (by omega), List.take_of_length_le (by omega)]
  rw [memRead_eq]
  simp only [hd, ht, cellsFrom_offsets, cellsFrom_bytes, if_true]

/-- What a successful read answers: as many bytes as it was asked for, at consecutive offsets. -/
theorem memRead_length {m : Memory} {k n : Nat} {bytes : List Byte} (h : memRead m k n = some bytes) :
    bytes.length = n := by
  rw [memRead_eq] at h
  split at h
  · rename_i hc
    have := congrArg List.length hc
    simp only [List.length_map, List.length_range'] at this
    rw [← Option.some.inj h, List.length_map, this]
  · exact absurd h (by simp)

/-- A FRAME word's bytes decode to the FRAME that `decodeTableWord` answers. -/
theorem decodeTx_frameWord (w : Nat) :
    decodeTx .txData ((List.range cfg.frameBytes).map (wordByte w))
      = .ok (.frame ((List.range cfg.frameBytes).map (wordByte w)), []) := by
  have key : ∀ bytes : List Byte, bytes.length = cfg.frameBytes → decodeTx .txData bytes = .ok (.frame bytes, []) := by
    intro bytes h
    rw [decodeTx, ← h, List.take_length, if_pos rfl, List.drop_length]
  exact key _ (by rw [List.length_map, List.length_range])

end Sys2Proof.Machine
end

