-- ==== Sys2Proof/Laws/Encoder.lean ====
section
/-! SUPPORT. What the frame encoder's functions compute: the bits of a packed byte, the bytes of a segment, the bytes of
a frame, and the frame buffer after PACK's writes. -/

namespace Sys2Proof.Machine

/-! ### Packed bytes (40_frame_encoder.md R95, 30_encoding.md R62) -/

/-- A level's bit enters the lanes of its plane with the weight of its lane. -/
theorem laneByte_pushLevel (p : Plane) (a : Lanes) (v : Level) :
    laneByte p (pushLevel a v) = (if a.lane = 0#3 then 0#8 else laneByte p a)
      + BitVec.ofNat 8 ((levelBit p v).toNat * 2 ^ (7 - a.lane.toNat)) := by
  cases p <;> rfl

theorem lane_pushLevel (a : Lanes) (v : Level) : (pushLevel a v).lane = a.lane + 1#3 := rfl

/-- Eight levels pushed from lane 0 leave each level's bit at bit 7-k, whatever the bytes held before. -/
theorem laneByte_eight (p : Plane) (a : Lanes) (ha : a.lane = 0#3) (v : Nat → Level) (k : Nat) (hk : k < 8) :
    (laneByte p ((List.range 8).foldl (fun a k => pushLevel a (v k)) a)).getLsbD (7 - k) = levelBit p (v k) := by
  have hr : List.range 8 = [0, 1, 2, 3, 4, 5, 6, 7] := rfl
  simp only [hr, List.foldl_cons, List.foldl_nil, laneByte_pushLevel, lane_pushLevel, ha]
  have key : ∀ b0 b1 b2 b3 b4 b5 b6 b7 : Bool, ∀ k : Fin 8,
      (((((((((0#8 + BitVec.ofNat 8 (b0.toNat * 128)) + BitVec.ofNat 8 (b1.toNat * 64))
        + BitVec.ofNat 8 (b2.toNat * 32)) + BitVec.ofNat 8 (b3.toNat * 16)) + BitVec.ofNat 8 (b4.toNat * 8))
        + BitVec.ofNat 8 (b5.toNat * 4)) + BitVec.ofNat 8 (b6.toNat * 2)) + BitVec.ofNat 8 (b7.toNat * 1))).getLsbD
          (7 - k.val)
        = [b0, b1, b2, b3, b4, b5, b6, b7].getD k.val false := by decide
  have := key (levelBit p (v 0)) (levelBit p (v 1)) (levelBit p (v 2)) (levelBit p (v 3)) (levelBit p (v 4))
    (levelBit p (v 5)) (levelBit p (v 6)) (levelBit p (v 7)) ⟨k, hk⟩
  refine Eq.trans (Eq.trans ?_ this) ?_
  · rfl
  · interval_cases k <;> rfl

/-- Bit 7-k of a packed byte is the plane bit of the cell k columns on. -/
theorem packByte_getLsbD (cell : Nat → Nat → Byte) (p : Plane) (r c k : Nat) (hk : k < 8) :
    (packByte cell p r c).getLsbD (7 - k) = planeBit p (cell r (c + k)) :=
  laneByte_eight p emptyLanes rfl (fun k => quantize (cell r (c + k))) k hk

/-! ### Places (20_memory.md R46) -/

/-- The place of a cell lies inside FB, and its bit inside a byte. -/
theorem locate_lt {r c : Nat} (hr : r < 984) (hc : c < 1304) :
    (locate r c).msbOffset < 320784 ∧ (locate r c).lsbOffset < 320784 ∧ (locate r c).bit < 8 := by
  have key : ∀ q ∈ [Quadrant.topLeft, .topRight, .bottomLeft, .bottomRight], quadrantOf r c = q →
      (locate r c).msbOffset < 320784 ∧ (locate r c).lsbOffset < 320784 ∧ (locate r c).bit < 8 := by
    have b : ∀ q, segBase q .msb + segLength q ≤ 320784 ∧ segBase q .lsb + segLength q ≤ 320784 := fun q => by
      cases q <;> decide
    intro q _ hq
    obtain ⟨b1, b2⟩ := b q
    have hn : (r - quadRow q) * bytesPerRow q + (c - quadCol q) / 8 < segLength q := by
      have hr' : r - quadRow q < 492 := by
        unfold quadrantOf at hq
        cases q <;> split at hq <;> split at hq <;> simp_all [quadRow, cfg] <;> omega
      have hc' : (c - quadCol q) / 8 < bytesPerRow q := by
        unfold quadrantOf at hq
        cases q <;> split at hq <;> split at hq <;> simp_all [quadCol, bytesPerRow, quadWidth, cfg] <;> omega
      have : segLength q = 492 * bytesPerRow q := rfl
      rw [this]
      calc (r - quadRow q) * bytesPerRow q + (c - quadCol q) / 8
          < (r - quadRow q) * bytesPerRow q + bytesPerRow q := by omega
        _ = (r - quadRow q + 1) * bytesPerRow q := by rw [Nat.succ_mul]
        _ ≤ 492 * bytesPerRow q := Nat.mul_le_mul_right _ (by omega)
    simp only [locate, hq]
    omega
  exact key (quadrantOf r c) (by cases quadrantOf r c <;> simp) rfl

/-! ### Segments (40_frame_encoder.md R96, 20_memory.md R45) -/

/-- A table of rows laid end to end is read by row and column. -/
theorem rows_getElem? (w : Nat) (hw : 0 < w) (f : Nat → Nat → Byte) (m n : Nat) (hn : n < m * w) :
    ((List.range m).flatMap (fun r => (List.range w).map (f r)))[n]? = some (f (n / w) (n % w)) := by
  induction m with
  | zero => simp at hn
  | succ m ih =>
    have hlen : ((List.range m).flatMap (fun r => (List.range w).map (f r))).length = m * w := by
      simp [List.length_flatMap, List.map_const', List.sum_replicate]
    rw [List.range_succ, List.flatMap_append]
    by_cases h : n < m * w
    · rw [List.getElem?_append_left (by omega), ih h]
    · have hlt : n - m * w < w := by rw [Nat.succ_mul] at hn; omega
      have hn' : n = (n - m * w) + w * m := by rw [Nat.mul_comm w m]; omega
      have hdiv : n / w = m := by
        rw [hn', Nat.add_mul_div_left _ _ hw, Nat.div_eq_of_lt hlt, Nat.zero_add]
      have hmod : n % w = n - m * w := by
        conv_lhs => rw [hn']
        rw [Nat.add_mul_mod_self_left, Nat.mod_eq_of_lt hlt]
      rw [List.getElem?_append_right (by omega), hlen, hdiv, hmod]
      simp [hlt]

theorem packSegment_length (cell : Nat → Nat → Byte) (q : Quadrant) (p : Plane) :
    (packSegment cell q p).length = segLength q := by
  simp [packSegment, segLength, List.length_flatMap, List.map_const', List.sum_replicate]

theorem bytesPerRow_pos (q : Quadrant) : 0 < bytesPerRow q := by cases q <;> decide

/-- The byte at index n of a segment (20_memory.md R45). -/
theorem packSegment_getElem? (cell : Nat → Nat → Byte) (q : Quadrant) (p : Plane) (n : Nat) (hn : n < segLength q) :
    (packSegment cell q p)[n]?
      = some (packByte cell p (quadRow q + n / bytesPerRow q) (quadCol q + 8 * (n % bytesPerRow q))) :=
  rows_getElem? _ (bytesPerRow_pos q) (fun r j => packByte cell p (quadRow q + r) (quadCol q + 8 * j)) _ _ hn

/-! ### The frame (30_encoding.md R63, 20_memory.md R44) -/

/-- The length of consecutive segments is the sum of their lengths. -/
theorem segments_length (cell : Nat → Nat → Byte) (order : List (Quadrant × Plane)) :
    (order.flatMap (fun s => packSegment cell s.1 s.2)).length = (order.map (fun s => segLength s.1)).sum := by
  induction order with
  | nil => rfl
  | cons s rest ih => simp [packSegment_length, ih]

theorem packFrame_length (cell : Nat → Nat → Byte) : (packFrame cell).length = cfg.frameBytes := by
  rw [packFrame, segments_length]; decide

/-- A segment of an order stands at its base in the frame of that order. -/
theorem segments_getElem? (cell : Nat → Nat → Byte) (order : List (Quadrant × Plane)) (q : Quadrant) (p : Plane)
    (hmem : (q, p) ∈ order) (n : Nat) (hn : n < segLength q) :
    (order.flatMap (fun s => packSegment cell s.1 s.2))[segBaseIn order q p + n]? = (packSegment cell q p)[n]? := by
  induction order with
  | nil => exact absurd hmem (by simp)
  | cons s rest ih =>
    rw [List.flatMap_cons]
    by_cases hs : s = (q, p)
    · subst hs
      simp only [segBaseIn, if_true, Nat.zero_add]
      rw [List.getElem?_append_left (by rw [packSegment_length]; exact hn)]
    · have hrest : (q, p) ∈ rest := by
        rcases List.mem_cons.1 hmem with h | h
        · exact absurd h.symm hs
        · exact h
      simp only [segBaseIn, if_neg hs]
      rw [List.getElem?_append_right (by rw [packSegment_length]; omega), packSegment_length, ← ih hrest]
      congr 1
      omega

theorem segOrder_complete (q : Quadrant) (p : Plane) : (q, p) ∈ cfg.segOrder := by
  cases q <;> cases p <;> decide

/-- The byte of a frame at index n of the segment of q and p. -/
theorem packFrame_getElem? (cell : Nat → Nat → Byte) (q : Quadrant) (p : Plane) (n : Nat) (hn : n < segLength q) :
    (packFrame cell)[segBase q p + n]?
      = some (packByte cell p (quadRow q + n / bytesPerRow q) (quadCol q + 8 * (n % bytesPerRow q))) := by
  rw [← packSegment_getElem? cell q p n hn]
  exact segments_getElem? cell cfg.segOrder q p (segOrder_complete q p) n hn

/-! ### The frame buffer after PACK's writes (40_frame_encoder.md R97) -/

theorem takeWhile_dropWhile_self (m : Memory) (k : Nat) :
    (m.dropWhile (fun c => decide (c.1 < k))).takeWhile (fun c => decide (c.1 < k)) = [] := by
  induction m with
  | nil => rfl
  | cons x rest ih =>
    by_cases h : x.1 < k
    · simpa [h] using ih
    · simp [h]

theorem dropWhile_dropWhile_le (m : Memory) {j k : Nat} (hjk : j ≤ k) :
    (m.dropWhile (fun c => decide (c.1 < j))).dropWhile (fun c => decide (c.1 < k))
      = m.dropWhile (fun c => decide (c.1 < k)) := by
  induction m with
  | nil => rfl
  | cons x rest ih =>
    by_cases h : x.1 < j
    · have hk : x.1 < k := by omega
      simpa [h, hk] using ih
    · simp [h]

/-- A write just behind bytes that stand from offset 0 on lengthens them. -/
theorem memWrite_behind (a b : List Byte) (m : Memory) :
    memWrite (cellsFrom 0 a ++ m.dropWhile (fun c => decide (c.1 < a.length))) a.length b
      = cellsFrom 0 (a ++ b) ++ m.dropWhile (fun c => decide (c.1 < (a ++ b).length)) := by
  have h1 : ∀ c ∈ cellsFrom 0 a, decide (c.1 < a.length) = true := fun c hc => by
    have := (mem_cellsFrom hc).2; simp; omega
  have h2 : ∀ c ∈ cellsFrom 0 a, decide (c.1 < a.length + b.length) = true := fun c hc => by
    have := (mem_cellsFrom hc).2; simp; omega
  simp only [memWrite]
  rw [List.takeWhile_append_of_pos h1, List.dropWhile_append_of_pos h2, takeWhile_dropWhile_self,
    dropWhile_dropWhile_le m (Nat.le_add_right _ _), List.append_nil, cellsFrom_append, List.length_append,
    Nat.zero_add]

theorem writeSegments_behind (cell : Nat → Nat → Byte) (order : List (Quadrant × Plane)) (a : List Byte) (m : Memory) :
    writeSegments cell order a.length (cellsFrom 0 a ++ m.dropWhile (fun c => decide (c.1 < a.length)))
      = cellsFrom 0 (a ++ order.flatMap (fun s => packSegment cell s.1 s.2))
        ++ m.dropWhile (fun c => decide (c.1 < (a ++ order.flatMap (fun s => packSegment cell s.1 s.2)).length)) := by
  induction order generalizing a with
  | nil => simp [writeSegments]
  | cons s rest ih =>
    rw [writeSegments, memWrite_behind, ← List.length_append, ih, List.flatMap_cons, List.append_assoc]

/-- PACK's eight writes leave the packed frame at offsets 0 up, and behind it what stood there before. -/
theorem writeSegments_eq (cell : Nat → Nat → Byte) (m : Memory) :
    writeSegments cell cfg.segOrder 0 m
      = cellsFrom 0 (packFrame cell) ++ m.dropWhile (fun c => decide (c.1 < cfg.frameBytes)) := by
  have hd : m.dropWhile (fun c => decide (c.1 < 0)) = m := by cases m <;> simp
  have h : writeSegments cell cfg.segOrder 0 m
      = cellsFrom 0 (packFrame cell) ++ m.dropWhile (fun c => decide (c.1 < (packFrame cell).length)) := by
    have key : ∀ F : List Byte,
        writeSegments cell cfg.segOrder 0 (m.dropWhile (fun c => decide (c.1 < 0)))
          = cellsFrom 0 ([] ++ F) ++ m.dropWhile (fun c => decide (c.1 < ([] ++ F).length)) →
        writeSegments cell cfg.segOrder 0 m
          = cellsFrom 0 F ++ m.dropWhile (fun c => decide (c.1 < F.length)) := by
      intro F h
      rw [hd] at h
      exact h
    exact key _ (writeSegments_behind cell cfg.segOrder [] m)
  have hfun : (fun c : Host.Cell => decide (c.1 < (packFrame cell).length))
      = (fun c : Host.Cell => decide (c.1 < cfg.frameBytes)) := by
    funext c; exact congrArg (fun n => decide (c.1 < n)) (packFrame_length cell)
  exact h.trans (congrArg (fun f => cellsFrom 0 (packFrame cell) ++ m.dropWhile f) hfun)

/-- TRANSMIT's read after PACK's writes is the packed frame. -/
theorem memRead_writeSegments (cell : Nat → Nat → Byte) (m : Memory) :
    memRead (writeSegments cell cfg.segOrder 0 m) 0 cfg.frameBytes = some (packFrame cell) := by
  rw [writeSegments_eq]
  exact (congrArg (memRead _ 0) (packFrame_length cell).symm).trans (memRead_cellsFrom _ _)

theorem frameOffsets_eq : frameOffsets = List.range' 0 cfg.frameBytes := by
  unfold frameOffsets; rfl

theorem mem_frameOffsets (k : Nat) : k ∈ frameOffsets ↔ k < cfg.frameBytes := by
  rw [frameOffsets_eq]
  simp only [List.mem_range'_1, Nat.zero_le, true_and, Nat.zero_add]

/-- The cells of a packed frame lie at the offsets of FB. -/
theorem cellsFrom_packFrame_offsets (cell : Nat → Nat → Byte) :
    (cellsFrom 0 (packFrame cell)).map (·.1) = frameOffsets := by
  rw [cellsFrom_offsets, frameOffsets_eq]
  exact congrArg (List.range' 0) (packFrame_length cell)

/-- Over a buffer without values, or one that holds a whole frame, PACK's writes leave the packed frame and nothing
else. -/
theorem writeSegments_held (cell : Nat → Nat → Byte) (m : Memory) (h : m = [] ∨ m.map (·.1) = frameOffsets) :
    writeSegments cell cfg.segOrder 0 m = cellsFrom 0 (packFrame cell) := by
  have hd : m.dropWhile (fun c => decide (c.1 < cfg.frameBytes)) = [] := by
    rcases h with rfl | h
    · rfl
    · rw [List.dropWhile_eq_nil_iff]
      intro c hc
      have : c.1 ∈ frameOffsets := h ▸ List.mem_map_of_mem hc
      exact decide_eq_true ((mem_frameOffsets _).1 this)
  rw [writeSegments_eq, hd, List.append_nil]

/-- PACK's writes in a state whose buffer is in one of its two forms leave the packed frame and nothing else. -/
theorem writeSegments_of_frameHeld (s : State) (h : frameHeld s) :
    writeSegments s.ras.cell8 cfg.segOrder 0 s.fb = cellsFrom 0 (packFrame s.ras.cell8) := by
  refine writeSegments_held _ _ ?_
  cases hv : s.fbValid
  · exact .inl (h.2 hv)
  · exact .inr (h.1 hv)

/-- A buffer that holds a whole frame gives TRANSMIT its payload. -/
theorem memRead_of_offsets {m : Memory} (h : m.map (·.1) = frameOffsets) :
    memRead m 0 cfg.frameBytes = some (m.map (·.2)) := by
  have hlen : m.length = cfg.frameBytes := by
    have := congrArg List.length h
    rwa [List.length_map, frameOffsets_eq, List.length_range'] at this
  have hd : m.dropWhile (fun c => decide (c.1 < 0)) = m := by cases m <;> simp
  have ht : m.take cfg.frameBytes = m := by rw [← hlen, List.take_length]
  rw [memRead_eq]
  simp only [hd, ht]
  rw [if_pos (h.trans frameOffsets_eq)]

/-! ### The canonical form (log entry 9) -/

/-- PACK's writes keep the canonical form. -/
theorem writeSegments_wf (cell : Nat → Nat → Byte) (order : List (Quadrant × Plane)) (k : Nat) {m : Memory}
    (hm : Memory.wf m) : Memory.wf (writeSegments cell order k m) := by
  induction order generalizing k m with
  | nil => simpa [writeSegments] using hm
  | cons s rest ih => rw [writeSegments]; exact ih _ (memWrite_wf hm _ _)

/-- Placing an instruction keeps the canonical form. -/
theorem placeInstr_wf (i : Instr) {s : State} (hm : Memory.wf s.fb) : Memory.wf (placeInstr i s).fb := by
  unfold placeInstr
  split
  · exact hm
  · exact hm
  · exact hm
  · rename_i p bytes _
    show Memory.wf (if p = .txData then memWrite s.fb 0 bytes else s.fb)
    split
    · exact memWrite_wf hm _ _
    · exact hm

/-- The memory of the reset state is in canonical form. -/
theorem reset_memory_wf : Memory.wf State.reset.fb := List.Pairwise.nil

/-- A buffer in one of its two forms is in canonical form. -/
theorem frameHeld_wf {s : State} (h : frameHeld s) : Memory.wf s.fb := by
  cases hv : s.fbValid
  · rw [h.2 hv]; exact List.Pairwise.nil
  · have key : ∀ (m : Memory) (k n : Nat), m.map (·.1) = List.range' k n → m.Pairwise (fun x y => x.1 < y.1) := by
      intro m k n hm
      exact List.pairwise_map.1 (hm ▸ List.pairwise_lt_range')
    exact key s.fb 0 cfg.frameBytes ((h.1 hv).trans frameOffsets_eq)

/-! ### Validation (40_frame_encoder.md R98) -/

theorem lookup_some_mem {cells : List ((Nat × Nat) × Int)} {k : Nat × Nat} {v : Int} (h : cells.lookup k = some v) :
    (k, v) ∈ cells := by
  induction cells with
  | nil => simp at h
  | cons x rest ih =>
    obtain ⟨a, b⟩ := x
    rw [List.lookup_cons] at h
    split at h
    · rename_i hk
      rw [← Option.some.inj h, eq_of_beq hk]
      exact List.mem_cons_self
    · exact List.mem_cons_of_mem _ (ih h)

/-- `valid` says what R98 says: the shape, and every cell of the grid between 0 and 255. -/
theorem Raster.valid_iff (ras : Raster) :
    ras.valid = true ↔ ras.rows = 984 ∧ ras.cols = 1304
      ∧ ∀ r < 984, ∀ c < 1304, 0 ≤ ras.cell r c ∧ ras.cell r c ≤ 255 := by
  have hin : ∀ v : Int, inCellRange v = true ↔ 0 ≤ v ∧ v ≤ 255 := fun v => by
    have hM : (cfg.cellMax : Int) = 255 := rfl
    simp [inCellRange, hM]
  have hH : cfg.panelH = 984 := rfl
  have hW : cfg.panelW = 1304 := rfl
  simp only [Raster.valid, Bool.and_eq_true, beq_iff_eq, hH, hW, and_assoc]
  refine and_congr_right fun hr => and_congr_right fun hc => ?_
  simp only [Raster.cellsInRange, Bool.and_eq_true, Bool.or_eq_true, List.all_eq_true, hin, List.mem_range, hr, hc,
    Bool.not_eq_true', Bool.and_eq_false_iff, decide_eq_false_iff_not]
  constructor
  · rintro ⟨hlisted, hbase⟩ r hr' c hc'
    cases hl : ras.cells.lookup (r, c) with
    | none =>
      rcases hbase with hb | hb
      · simpa [Raster.cell, hl] using hb
      · simpa [hl] using hb r hr' c hc'
    | some v =>
      rcases hlisted _ (lookup_some_mem hl) with (h | h) | h
      · exact absurd hr' h
      · exact absurd hc' h
      · exact h
  · intro hall
    refine ⟨fun e _ => ?_, ?_⟩
    · by_cases h1 : e.1.1 < 984
      · by_cases h2 : e.1.2 < 1304
        · exact .inr (hall _ h1 _ h2)
        · exact .inl (.inr h2)
      · exact .inl (.inl h1)
    · by_cases hb : 0 ≤ ras.base ∧ ras.base ≤ 255
      · exact .inl hb
      · refine .inr fun r hr' c hc' => ?_
        cases hl : ras.cells.lookup (r, c) with
        | none => exact absurd (by simpa [Raster.cell, hl] using hall r hr' c hc') hb
        | some v => rfl

end Sys2Proof.Machine
end

