-- ==== Sys2Proof/Laws/State.lean ====
section
/-! SUPPORT. What each named update of the state leaves in each field: one lemma per field per update. -/

namespace Sys2Proof.Machine

@[simp] theorem linkClose_ras (s : State) : (linkClose s).ras = s.ras := rfl
@[simp] theorem linkClose_fb (s : State) : (linkClose s).fb = s.fb := rfl
@[simp] theorem linkClose_fbValid (s : State) : (linkClose s).fbValid = s.fbValid := rfl
@[simp] theorem linkClose_linkState (s : State) : (linkClose s).linkState = s.linkState := rfl
@[simp] theorem linkClose_linkFault (s : State) : (linkClose s).linkFault = s.linkFault := rfl
@[simp] theorem linkClose_phase (s : State) : (linkClose s).phase = s.phase := rfl
@[simp] theorem linkClose_tOpen (s : State) : (linkClose s).tOpen = false := rfl
@[simp] theorem linkClose_rxq (s : State) : (linkClose s).rxq = s.rxq := rfl
@[simp] theorem linkClose_txh (s : State) : (linkClose s).txh = s.txh := rfl
@[simp] theorem linkClose_tcloses (s : State) : (linkClose s).tcloses = s.tcloses + 1 := rfl
@[simp] theorem linkClose_port (s : State) : (linkClose s).port = s.port := rfl
@[simp] theorem linkClose_results (s : State) : (linkClose s).results = s.results := rfl
@[simp] theorem linkClose_lanes (s : State) : (linkClose s).lanes = s.lanes := rfl
@[simp] theorem linkClose_failNext (s : State) : (linkClose s).failNext = s.failNext := rfl
@[simp] theorem linkClose_freeCtr (s : State) : (linkClose s).freeCtr = s.freeCtr := rfl
@[simp] theorem linkClose_sched (s : State) : (linkClose s).sched = s.sched := rfl

@[simp] theorem accept_ras (s : State) : (accept s).ras = s.ras := rfl
@[simp] theorem accept_fb (s : State) : (accept s).fb = s.fb := rfl
@[simp] theorem accept_fbValid (s : State) : (accept s).fbValid = s.fbValid := rfl
@[simp] theorem accept_linkState (s : State) : (accept s).linkState = s.linkState := rfl
@[simp] theorem accept_linkFault (s : State) : (accept s).linkFault = s.linkFault := rfl
@[simp] theorem accept_phase (s : State) : (accept s).phase = s.phase := rfl
@[simp] theorem accept_tOpen (s : State) : (accept s).tOpen = s.tOpen := rfl
@[simp] theorem accept_rxq (s : State) : (accept s).rxq = s.rxq := rfl
@[simp] theorem accept_txh (s : State) : (accept s).txh = s.txh := rfl
@[simp] theorem accept_tcloses (s : State) : (accept s).tcloses = s.tcloses := rfl
@[simp] theorem accept_port (s : State) : (accept s).port = none := rfl
@[simp] theorem accept_results (s : State) : (accept s).results = s.results := rfl
@[simp] theorem accept_lanes (s : State) : (accept s).lanes = s.lanes := rfl
@[simp] theorem accept_failNext (s : State) : (accept s).failNext = s.failNext := rfl
@[simp] theorem accept_freeCtr (s : State) : (accept s).freeCtr = s.freeCtr := rfl
@[simp] theorem accept_sched (s : State) : (accept s).sched = s.sched := rfl

@[simp] theorem complete_ras (r : Result) (s : State) : (complete r s).ras = s.ras := rfl
@[simp] theorem complete_fb (r : Result) (s : State) : (complete r s).fb = s.fb := rfl
@[simp] theorem complete_fbValid (r : Result) (s : State) : (complete r s).fbValid = s.fbValid := rfl
@[simp] theorem complete_linkState (r : Result) (s : State) : (complete r s).linkState = s.linkState := rfl
@[simp] theorem complete_linkFault (r : Result) (s : State) : (complete r s).linkFault = s.linkFault := rfl
@[simp] theorem complete_phase (r : Result) (s : State) : (complete r s).phase = s.phase := rfl
@[simp] theorem complete_tOpen (r : Result) (s : State) : (complete r s).tOpen = s.tOpen := rfl
@[simp] theorem complete_rxq (r : Result) (s : State) : (complete r s).rxq = s.rxq := rfl
@[simp] theorem complete_txh (r : Result) (s : State) : (complete r s).txh = s.txh := rfl
@[simp] theorem complete_tcloses (r : Result) (s : State) : (complete r s).tcloses = s.tcloses := rfl
@[simp] theorem complete_port (r : Result) (s : State) : (complete r s).port = none := rfl
@[simp] theorem complete_results (r : Result) (s : State) : (complete r s).results = s.results ++ [r] := rfl
@[simp] theorem complete_lanes (r : Result) (s : State) : (complete r s).lanes = s.lanes := rfl
@[simp] theorem complete_failNext (r : Result) (s : State) : (complete r s).failNext = s.failNext := rfl
@[simp] theorem complete_freeCtr (r : Result) (s : State) : (complete r s).freeCtr = s.freeCtr := rfl
@[simp] theorem complete_sched (r : Result) (s : State) : (complete r s).sched = s.sched := rfl

@[simp] theorem refuseCommand_ras (s : State) : (refuseCommand s).ras = s.ras := rfl
@[simp] theorem refuseCommand_fb (s : State) : (refuseCommand s).fb = s.fb := rfl
@[simp] theorem refuseCommand_fbValid (s : State) : (refuseCommand s).fbValid = s.fbValid := rfl
@[simp] theorem refuseCommand_linkState (s : State) : (refuseCommand s).linkState = s.linkState := rfl
@[simp] theorem refuseCommand_linkFault (s : State) : (refuseCommand s).linkFault = s.linkFault := rfl
@[simp] theorem refuseCommand_phase (s : State) : (refuseCommand s).phase = s.phase := rfl
@[simp] theorem refuseCommand_tOpen (s : State) : (refuseCommand s).tOpen = s.tOpen := rfl
@[simp] theorem refuseCommand_rxq (s : State) : (refuseCommand s).rxq = s.rxq := rfl
@[simp] theorem refuseCommand_txh (s : State) : (refuseCommand s).txh = s.txh := rfl
@[simp] theorem refuseCommand_tcloses (s : State) : (refuseCommand s).tcloses = s.tcloses := rfl
@[simp] theorem refuseCommand_port (s : State) : (refuseCommand s).port = none := rfl
@[simp] theorem refuseCommand_results (s : State) : (refuseCommand s).results = s.results ++ [.commandRefused] := rfl
@[simp] theorem refuseCommand_lanes (s : State) : (refuseCommand s).lanes = s.lanes := rfl
@[simp] theorem refuseCommand_failNext (s : State) : (refuseCommand s).failNext = s.failNext := rfl
@[simp] theorem refuseCommand_freeCtr (s : State) : (refuseCommand s).freeCtr = s.freeCtr := rfl
@[simp] theorem refuseCommand_sched (s : State) : (refuseCommand s).sched = s.sched := rfl

@[simp] theorem raiseError_ras (e : LinkError) (s : State) : (raiseError e s).ras = s.ras := rfl
@[simp] theorem raiseError_fb (e : LinkError) (s : State) : (raiseError e s).fb = s.fb := rfl
@[simp] theorem raiseError_fbValid (e : LinkError) (s : State) : (raiseError e s).fbValid = s.fbValid := rfl
@[simp] theorem raiseError_linkState (e : LinkError) (s : State) : (raiseError e s).linkState = .closed := rfl
@[simp] theorem raiseError_linkFault (e : LinkError) (s : State) : (raiseError e s).linkFault = linkErrorFault e := rfl
@[simp] theorem raiseError_phase (e : LinkError) (s : State) : (raiseError e s).phase = .idle := rfl
@[simp] theorem raiseError_tOpen (e : LinkError) (s : State) : (raiseError e s).tOpen = false := rfl
@[simp] theorem raiseError_rxq (e : LinkError) (s : State) : (raiseError e s).rxq = s.rxq := rfl
@[simp] theorem raiseError_txh (e : LinkError) (s : State) : (raiseError e s).txh = s.txh := rfl
@[simp] theorem raiseError_tcloses (e : LinkError) (s : State) : (raiseError e s).tcloses = s.tcloses + 1 := rfl
@[simp] theorem raiseError_port (e : LinkError) (s : State) : (raiseError e s).port = none := rfl
@[simp] theorem raiseError_results (e : LinkError) (s : State) : (raiseError e s).results = s.results ++ [linkErrorResult e] := rfl
@[simp] theorem raiseError_lanes (e : LinkError) (s : State) : (raiseError e s).lanes = s.lanes := rfl
@[simp] theorem raiseError_failNext (e : LinkError) (s : State) : (raiseError e s).failNext = s.failNext := rfl
@[simp] theorem raiseError_freeCtr (e : LinkError) (s : State) : (raiseError e s).freeCtr = s.freeCtr := rfl
@[simp] theorem raiseError_sched (e : LinkError) (s : State) : (raiseError e s).sched = s.sched := rfl

@[simp] theorem finishOk_ras (s : State) : (finishOk s).ras = s.ras := rfl
@[simp] theorem finishOk_fb (s : State) : (finishOk s).fb = s.fb := rfl
@[simp] theorem finishOk_fbValid (s : State) : (finishOk s).fbValid = s.fbValid := rfl
@[simp] theorem finishOk_linkState (s : State) : (finishOk s).linkState = .closed := rfl
@[simp] theorem finishOk_linkFault (s : State) : (finishOk s).linkFault = .none := rfl
@[simp] theorem finishOk_phase (s : State) : (finishOk s).phase = .idle := rfl
@[simp] theorem finishOk_tOpen (s : State) : (finishOk s).tOpen = false := rfl
@[simp] theorem finishOk_rxq (s : State) : (finishOk s).rxq = s.rxq := rfl
@[simp] theorem finishOk_txh (s : State) : (finishOk s).txh = s.txh := rfl
@[simp] theorem finishOk_tcloses (s : State) : (finishOk s).tcloses = s.tcloses + 1 := rfl
@[simp] theorem finishOk_port (s : State) : (finishOk s).port = none := rfl
@[simp] theorem finishOk_results (s : State) : (finishOk s).results = s.results ++ [.ok] := rfl
@[simp] theorem finishOk_lanes (s : State) : (finishOk s).lanes = s.lanes := rfl
@[simp] theorem finishOk_failNext (s : State) : (finishOk s).failNext = s.failNext := rfl
@[simp] theorem finishOk_freeCtr (s : State) : (finishOk s).freeCtr = s.freeCtr := rfl
@[simp] theorem finishOk_sched (s : State) : (finishOk s).sched = s.sched := rfl

@[simp] theorem enterPixel_ras (v : Level) (s : State) : (enterPixel v s).ras = s.ras := rfl
@[simp] theorem enterPixel_fb (v : Level) (s : State) : (enterPixel v s).fb = s.fb := rfl
@[simp] theorem enterPixel_fbValid (v : Level) (s : State) : (enterPixel v s).fbValid = s.fbValid := rfl
@[simp] theorem enterPixel_linkState (v : Level) (s : State) : (enterPixel v s).linkState = s.linkState := rfl
@[simp] theorem enterPixel_linkFault (v : Level) (s : State) : (enterPixel v s).linkFault = s.linkFault := rfl
@[simp] theorem enterPixel_phase (v : Level) (s : State) : (enterPixel v s).phase = s.phase := rfl
@[simp] theorem enterPixel_tOpen (v : Level) (s : State) : (enterPixel v s).tOpen = s.tOpen := rfl
@[simp] theorem enterPixel_rxq (v : Level) (s : State) : (enterPixel v s).rxq = s.rxq := rfl
@[simp] theorem enterPixel_txh (v : Level) (s : State) : (enterPixel v s).txh = s.txh := rfl
@[simp] theorem enterPixel_tcloses (v : Level) (s : State) : (enterPixel v s).tcloses = s.tcloses := rfl
@[simp] theorem enterPixel_port (v : Level) (s : State) : (enterPixel v s).port = none := rfl
@[simp] theorem enterPixel_results (v : Level) (s : State) : (enterPixel v s).results = s.results := rfl
@[simp] theorem enterPixel_lanes (v : Level) (s : State) : (enterPixel v s).lanes = pushLevel s.lanes v := rfl
@[simp] theorem enterPixel_failNext (v : Level) (s : State) : (enterPixel v s).failNext = s.failNext := rfl
@[simp] theorem enterPixel_freeCtr (v : Level) (s : State) : (enterPixel v s).freeCtr = s.freeCtr := rfl
@[simp] theorem enterPixel_sched (v : Level) (s : State) : (enterPixel v s).sched = s.sched := rfl

end Sys2Proof.Machine
end

