-- ==== Sys2Proof/Laws/Ops.lean ====
section
/-! SUPPORT. What each shared operation can do, said once: its equations, and the cases of a next state. -/

namespace Sys2Proof.Machine

/-! ### The transport primitives (41_link_protocol.md R112, R113) -/

theorem linkRead_byte {s : State} {b : Byte} {rest : List Byte} (hf : s.failNext = none) (ho : s.tOpen = true)
    (hq : s.rxq = b :: rest) : linkRead s = (.byte b, { s with rxq := rest }) := by
  simp [linkRead, hf, ho, hq]

theorem linkRead_fail {s : State} {f : Failure} (hf : s.failNext = some f) :
    linkRead s = (.ioError f.info, { s with failNext := none }) := by
  simp [linkRead, hf]

theorem linkRead_closed {s : State} (hf : s.failNext = none) (ho : s.tOpen = false) :
    linkRead s = (.ioError (Config.freeInfo s.freeCtr), { s with freeCtr := s.freeCtr + 1 }) := by
  simp [linkRead, hf, ho]

theorem linkRead_blocked {s : State} (hf : s.failNext = none) (ho : s.tOpen = true) (hq : s.rxq = []) :
    linkRead s = (.blocked, s) := by
  simp [linkRead, hf, ho, hq]

theorem linkWrite_ok {s : State} (bytes : List Byte) (hf : s.failNext = none) (ho : s.tOpen = true) :
    linkWrite bytes s = (.ok, { s with txh := s.txh ++ bytes }) := by
  simp [linkWrite, hf, ho]

theorem linkWrite_fail {s : State} {f : Failure} (bytes : List Byte) (hf : s.failNext = some f) :
    linkWrite bytes s = (.ioError f.info,
      { s with failNext := none, txh := if s.tOpen then s.txh ++ bytes.take f.sent else s.txh }) := by
  simp [linkWrite, hf]

theorem linkWrite_closed {s : State} (bytes : List Byte) (hf : s.failNext = none) (ho : s.tOpen = false) :
    linkWrite bytes s = (.ioError (Config.freeInfo s.freeCtr), { s with freeCtr := s.freeCtr + 1 }) := by
  simp [linkWrite, hf, ho]

/-- The three ways a read micro-step goes on. -/
theorem readStep_cases {s t : State} {f : Byte → State → State} {g : Info → State → State}
    (h : readStep s f g = .next t) :
    (∃ b rest, s.failNext = none ∧ s.tOpen = true ∧ s.rxq = b :: rest ∧ t = f b { s with rxq := rest })
    ∨ (∃ info u, t = g info u
        ∧ (u = { s with failNext := none } ∨ (s.failNext = none ∧ u = { s with freeCtr := s.freeCtr + 1 })))
    ∨ (s.failNext = none ∧ s.tOpen = true ∧ s.rxq = [] ∧ t = s) := by
  unfold readStep at h
  rcases Option.eq_none_or_eq_some s.failNext with hf | ⟨x, hf⟩
  · rcases Bool.eq_false_or_eq_true s.tOpen with ho | ho
    · rcases hq : s.rxq with _ | ⟨b, rest⟩
      · rw [linkRead_blocked hf ho hq] at h
        exact .inr (.inr ⟨hf, ho, rfl, (Host.Outcome.next.inj h).symm⟩)
      · rw [linkRead_byte hf ho hq] at h
        exact .inl ⟨b, rest, hf, ho, rfl, (Host.Outcome.next.inj h).symm⟩
    · rw [linkRead_closed hf ho] at h
      exact .inr (.inl ⟨_, _, (Host.Outcome.next.inj h).symm, .inr ⟨hf, rfl⟩⟩)
  · rw [linkRead_fail hf] at h
    exact .inr (.inl ⟨_, _, (Host.Outcome.next.inj h).symm, .inl rfl⟩)

/-- The two ways a write micro-step goes on. -/
theorem writeStep_cases {s t : State} {bytes : List Byte} {p : Phase} (h : writeStep bytes p s = .next t) :
    (s.failNext = none ∧ s.tOpen = true ∧ t = { s with txh := s.txh ++ bytes, phase := p })
    ∨ (∃ info u, t = raiseError (.transport info) u
        ∧ ((∃ k, u = { s with failNext := none, txh := s.txh ++ bytes.take k })
          ∨ u = { s with freeCtr := s.freeCtr + 1 })) := by
  unfold writeStep at h
  rcases Option.eq_none_or_eq_some s.failNext with hf | ⟨x, hf⟩
  · rcases Bool.eq_false_or_eq_true s.tOpen with ho | ho
    · rw [linkWrite_ok bytes hf ho] at h
      exact .inl ⟨hf, ho, (Host.Outcome.next.inj h).symm⟩
    · rw [linkWrite_closed bytes hf ho] at h
      exact .inr ⟨_, _, (Host.Outcome.next.inj h).symm, .inr rfl⟩
  · rw [linkWrite_fail bytes hf] at h
    refine .inr ⟨_, _, (Host.Outcome.next.inj h).symm, .inl ?_⟩
    rcases Bool.eq_false_or_eq_true s.tOpen with ho | ho
    · exact ⟨x.sent, by simp [ho]⟩
    · exact ⟨0, by simp [ho]⟩

theorem atPhase_of {p : Phase} {s : State} (o : Out) (h : s.phase = p) : atPhase p s o = o := by
  simp [atPhase, h]

/-- A step at a PHASE happens only there. -/
theorem atPhase_next {p : Phase} {s t : State} {o : Out} (h : atPhase p s o = .next t) :
    s.phase = p ∧ o = .next t := by
  unfold atPhase at h
  split at h
  · exact ⟨‹_›, h⟩
  · cases h

/-- A read never stops the machine. -/
theorem readStep_next (s : State) (f : Byte → State → State) (g : Info → State → State) :
    ∃ t, readStep s f g = .next t := by
  unfold readStep
  split <;> exact ⟨_, rfl⟩

/-- A write never stops the machine. -/
theorem writeStep_next (bytes : List Byte) (p : Phase) (s : State) : ∃ t, writeStep bytes p s = .next t := by
  unfold writeStep
  split <;> exact ⟨_, rfl⟩

/-! ### The environment (41_link_protocol.md R115) -/

/-- A step of the environment leaves the block's own state alone, but for the code the host presents. -/
theorem envStep_frame (e : EnvStep) (s : State) :
    (envStep e s).fb = s.fb ∧ (envStep e s).fbValid = s.fbValid ∧ (envStep e s).linkState = s.linkState
    ∧ (envStep e s).linkFault = s.linkFault ∧ (envStep e s).phase = s.phase ∧ (envStep e s).txh = s.txh
    ∧ (envStep e s).tcloses = s.tcloses ∧ (envStep e s).results = s.results ∧ (envStep e s).lanes = s.lanes
    ∧ (envStep e s).freeCtr = s.freeCtr ∧ (envStep e s).sched = s.sched := by
  cases e <;> simp only [envStep] <;> (try split) <;> simp

/-- What stands at the port after a step of the environment: what stood there, or the code just issued, which the host
presents at PHASE Idle only. -/
theorem envStep_port (e : EnvStep) (s : State) :
    (envStep e s).port = s.port
    ∨ (∃ op, e = .issue op ∧ s.phase = .idle ∧ s.port = none ∧ (envStep e s).port = some (.cmd op)) := by
  cases e with
  | issue op =>
    by_cases h : s.phase = .idle ∧ s.port = none
    · exact .inr ⟨op, rfl, h.1, h.2, by simp [envStep, h]⟩
    · exact .inl (by simp [envStep, h])
  | devSend b => simp only [envStep]; split <;> simp
  | attach rx => simp only [envStep]; split <;> simp
  | present ras => simp only [envStep]; split <;> simp
  | _ => exact .inl rfl

/-- While a command stands at the port or is in progress, the host presents nothing: a step of the environment changes
the transport and what is due on it only. -/
theorem envStep_busy (e : EnvStep) {s : State} (h : s.phase ≠ .idle ∨ s.port ≠ none) :
    (envStep e s).port = s.port ∧ (envStep e s).ras = s.ras := by
  have hn : ¬ (s.phase = .idle ∧ s.port = none) := fun hp => h.elim (fun h => h hp.1) (fun h => h hp.2)
  cases e <;> simp only [envStep, hn, if_false] <;> (try split) <;> simp

/-! ### Fetching and stepping (10_state.md R27) -/

theorem decodeCmd_wf : ∀ op : BitVec 3, (decodeCmd op).wf = true := by decide

theorem decodePix_wf : ∀ code : BitVec 2, (decodePix code).wf = true := by decide

/-- What is fetched is well-formed: FRAME takes exactly FRAME_BYTES bytes out of FB. -/
theorem fetch_wf {s : State} {i : Instr} (h : fetch s = .run i) : i.wf = true := by
  unfold fetch at h
  split at h
  · split at h
    · cases h
    · rename_i op _
      cases h
      exact decodeCmd_wf op
    · rename_i code _
      cases h
      exact decodePix_wf code
  · cases h; rfl
  · cases h; rfl
  · split at h
    · rename_i payload hp
      cases h
      simpa [Instr.wf] using memRead_length hp
    · cases h
  · cases h; rfl
  · cases h; rfl
  · cases h; rfl

/-- At TxData the payload of FB is fetched. -/
theorem fetch_txData {s : State} {payload : List Byte} (hp : s.phase = .txData)
    (hm : memRead s.fb 0 cfg.frameBytes = some payload) : fetch s = .run (.frame payload) := by
  simp only [fetch, hp, hm]

/-- A payload of the right length at TxData is written. -/
theorem exec_frame_at {s : State} {payload : List Byte} (hl : payload.length = cfg.frameBytes) (hp : s.phase = .txData) :
    exec (.frame payload) s = writeStep payload .txAck s := by
  rw [exec, execFrame, if_pos hl, atPhase_of _ hp]

/-- A step at TxData writes FB's payload. -/
theorem step_txData {s : State} {payload : List Byte} (hs : s.sched = []) (hp : s.phase = .txData)
    (hm : memRead s.fb 0 cfg.frameBytes = some payload) (hl : payload.length = cfg.frameBytes) :
    step s = writeStep payload .txAck s := by
  simp only [step, hs, blockStep, fetch_txData hp hm]
  exact exec_frame_at hl hp

/-- Everything one step can do: a step of the environment, or, from the state in which the block has its turn, one of
its instructions or a wait. -/
theorem step_cases {s t : State} (h : step s = .next t) :
    (∃ e rest, s.sched = .env e :: rest ∧ t = envStep e { s with sched := rest })
    ∨ (∃ u, blockTurn s u ∧ ((∃ i, fetch u = .run i ∧ exec i u = .next t) ∨ (fetch u = .wait ∧ t = u))) := by
  have block : ∀ u, blockStep u = .next t →
      (∃ i, fetch u = .run i ∧ exec i u = .next t) ∨ (fetch u = .wait ∧ t = u) := by
    intro u hu
    unfold blockStep at hu
    split at hu
    · exact .inl ⟨_, ‹_›, hu⟩
    · exact .inr ⟨‹_›, (Host.Outcome.next.inj hu).symm⟩
    · cases hu
  unfold step at h
  split at h
  · exact .inr ⟨s, .inl ⟨‹_›, rfl⟩, block _ h⟩
  · exact .inr ⟨_, .inr ⟨_, ‹_›, rfl⟩, block _ h⟩
  · exact .inl ⟨_, _, ‹_›, (Host.Outcome.next.inj h).symm⟩

/-- A step of the block is a micro-step from the state in which it has its turn. -/
theorem step_of_blockTurn {s u : State} (h : blockTurn s u) : step s = blockStep u := by
  rcases h with ⟨hs, rfl⟩ | ⟨rest, hs, rfl⟩ <;> simp [step, hs]

end Sys2Proof.Machine
end

