-- ==== Sys2Proof/Laws/Exec.lean ====
section
/-! SUPPORT. Everything an instruction can do, said once (`exec_cases`), and PACK's two outcomes. -/

namespace Sys2Proof.Machine

/-- The next state of a command that only completes: CLOSE's no-op after a failure, PACK of a raster that is not valid,
or a refusal. -/
def onlyCompletes (i : Instr) (s t : State) : Prop :=
  phaseOfInstr i = some .idle ∧ s.phase = .idle
  ∧ ((i = .closeLink ∧ s.linkState = .closed ∧ s.linkFault ≠ .none ∧ t = complete .ok s)
    ∨ (i = .pack ∧ s.ras.valid = false ∧ t = complete .invalidFrame s)
    ∨ (i ≠ .pack ∧ t = complete .commandRefused s))

/-- The next state of a token that is written at p, with q the PHASE behind it. -/
def writesToken (i : Instr) (p q : Phase) (bytes : List Byte) (s t : State) : Prop :=
  encode i = .tx p bytes ∧ s.phase = p
  ∧ ((s.failNext = none ∧ s.tOpen = true ∧ t = { s with txh := s.txh ++ bytes, phase := q })
    ∨ (∃ info u, t = raiseError (.transport info) u
        ∧ ((∃ k, u = { s with failNext := none, txh := s.txh ++ bytes.take k })
          ∨ u = { s with freeCtr := s.freeCtr + 1 })))

/-- The next state of a token that is read at p: accepted, an error, or a wait. -/
def readsToken (i : Instr) (p : Phase) (b : Byte) (s t : State) : Prop :=
  encode i = .rx p [b] ∧ s.phase = p
  ∧ ((∃ rest, s.failNext = none ∧ s.tOpen = true ∧ s.rxq = b :: rest
        ∧ t = (if p = .clAck then finishOk { s with rxq := rest }
            else complete .ok { s with rxq := rest, linkState := .awake, phase := .idle }))
    ∨ (∃ e u, t = raiseError e u
        ∧ ((∃ b' rest, s.rxq = b' :: rest ∧ u = { s with rxq := rest })
          ∨ u = { s with failNext := none } ∨ u = { s with freeCtr := s.freeCtr + 1 }))
    ∨ (s.failNext = none ∧ s.tOpen = true ∧ s.rxq = [] ∧ t = s))

/-- PACK of a valid raster. -/
theorem exec_pack_valid {s : State} (h : s.phase = .idle) (hv : s.ras.valid = true) :
    exec .pack s = .next (complete .ok
      { s with fb := writeSegments s.ras.cell8 cfg.segOrder 0 s.fb, fbValid := true }) := by
  rw [exec, execPack, atPhase_of _ h, if_pos hv]

/-- PACK of a raster that is not valid. -/
theorem exec_pack_invalid {s : State} (h : s.phase = .idle) (hv : s.ras.valid = false) :
    exec .pack s = .next (complete .invalidFrame s) := by
  rw [exec, execPack, atPhase_of _ h, if_neg (by simp [hv])]

/-- The two outcomes of PACK. -/
theorem exec_pack_cases {s t : State} (h : exec .pack s = .next t) :
    s.phase = .idle
    ∧ ((s.ras.valid = true ∧ t = complete .ok
          { s with fb := writeSegments s.ras.cell8 cfg.segOrder 0 s.fb, fbValid := true })
      ∨ (s.ras.valid = false ∧ t = complete .invalidFrame s)) := by
  obtain ⟨hp, _⟩ := atPhase_next h
  refine ⟨hp, ?_⟩
  cases hv : s.ras.valid
  · exact .inr ⟨rfl, (Host.Outcome.next.inj ((exec_pack_invalid hp hv).symm.trans h)).symm⟩
  · exact .inl ⟨rfl, (Host.Outcome.next.inj ((exec_pack_valid hp hv).symm.trans h)).symm⟩

/-- Everything an instruction can do that goes on to a next state. -/
theorem exec_cases {i : Instr} {s t : State} (h : exec i s = .next t) :
    (∃ v, i = pixelInstr v ∧ t = enterPixel v s)
    ∨ onlyCompletes i s t
    ∨ (i = .pack ∧ s.phase = .idle ∧ s.ras.valid = true ∧ t = complete .ok
        { s with fb := writeSegments s.ras.cell8 cfg.segOrder 0 s.fb, fbValid := true })
    ∨ (i = .openLink ∧ s.phase = .idle ∧ s.linkState = .closed
        ∧ t = { s with port := none, linkFault := .none, phase := .openWait })
    ∨ (i = .transmit ∧ s.phase = .idle ∧ s.linkState = .awake ∧ s.fbValid = true
        ∧ t = { s with port := none, linkState := .transmitting, phase := .txCmd })
    ∨ (i = .closeLink ∧ s.phase = .idle ∧ s.linkState = .awake ∧ t = { s with port := none, phase := .clCmd })
    ∨ (∃ p q bytes, (p, q) ∈ [(Phase.txCmd, Phase.txData), (.txData, .txAck), (.clCmd, .clAck)]
        ∧ writesToken i p q bytes s t)
    ∨ (∃ p b, (p = .openWait ∨ p = .txAck ∨ p = .clAck) ∧ readsToken i p b s t) := by
  have reserved : ∀ {i}, phaseOfInstr i = some .idle → i ≠ .pack →
      atPhase .idle s (.next (refuseCommand s)) = .next t → onlyCompletes i s t := fun hi hne h => by
    obtain ⟨hp, h⟩ := atPhase_next h
    exact ⟨hi, hp, .inr (.inr ⟨hne, (Host.Outcome.next.inj h).symm⟩)⟩
  have write : ∀ {i p q bytes}, encode i = .tx p bytes → atPhase p s (writeStep bytes q s) = .next t →
      writesToken i p q bytes s t := fun hi h => by
    obtain ⟨hp, h⟩ := atPhase_next h
    exact ⟨hi, hp, writeStep_cases h⟩
  cases i
  case black => exact .inl ⟨.black, rfl, (Host.Outcome.next.inj h).symm⟩
  case white => exact .inl ⟨.white, rfl, (Host.Outcome.next.inj h).symm⟩
  case red => exact .inl ⟨.red, rfl, (Host.Outcome.next.inj h).symm⟩
  case pixReserved01 => cases h
  case cmdReserved000 => exact .inr (.inl (reserved rfl (by simp) h))
  case cmdReserved101 => exact .inr (.inl (reserved rfl (by simp) h))
  case cmdReserved110 => exact .inr (.inl (reserved rfl (by simp) h))
  case cmdReserved111 => exact .inr (.inl (reserved rfl (by simp) h))
  case pack =>
    obtain ⟨hp, ⟨hv, ht⟩ | ⟨hv, ht⟩⟩ := exec_pack_cases h
    · exact .inr (.inr (.inl ⟨rfl, hp, hv, ht⟩))
    · exact .inr (.inl ⟨rfl, hp, .inr (.inl ⟨rfl, hv, ht⟩)⟩)
  case openLink =>
    obtain ⟨hp, h⟩ := atPhase_next h
    split at h
    · exact .inr (.inr (.inr (.inl ⟨rfl, hp, ‹_›, (Host.Outcome.next.inj h).symm⟩)))
    · exact .inr (.inl ⟨rfl, hp, .inr (.inr ⟨by simp, (Host.Outcome.next.inj h).symm⟩)⟩)
    · exact .inr (.inl ⟨rfl, hp, .inr (.inr ⟨by simp, (Host.Outcome.next.inj h).symm⟩)⟩)
  case transmit =>
    obtain ⟨hp, h⟩ := atPhase_next h
    split at h
    · split at h
      · exact .inr (.inr (.inr (.inr (.inl ⟨rfl, hp, ‹_›, ‹_›, (Host.Outcome.next.inj h).symm⟩))))
      · exact .inr (.inl ⟨rfl, hp, .inr (.inr ⟨by simp, (Host.Outcome.next.inj h).symm⟩)⟩)
    · exact .inr (.inl ⟨rfl, hp, .inr (.inr ⟨by simp, (Host.Outcome.next.inj h).symm⟩)⟩)
    · exact .inr (.inl ⟨rfl, hp, .inr (.inr ⟨by simp, (Host.Outcome.next.inj h).symm⟩)⟩)
  case closeLink =>
    obtain ⟨hp, h⟩ := atPhase_next h
    split at h
    · exact .inr (.inr (.inr (.inr (.inr (.inl ⟨rfl, hp, ‹_›, (Host.Outcome.next.inj h).symm⟩)))))
    · split at h
      · exact .inr (.inl ⟨rfl, hp, .inr (.inr ⟨by simp, (Host.Outcome.next.inj h).symm⟩)⟩)
      · exact .inr (.inl ⟨rfl, hp, .inl ⟨rfl, ‹_›, ‹_›, (Host.Outcome.next.inj h).symm⟩⟩)
    · exact .inr (.inl ⟨rfl, hp, .inr (.inr ⟨by simp, (Host.Outcome.next.inj h).symm⟩)⟩)
  case beginTx =>
    exact .inr (.inr (.inr (.inr (.inr (.inr (.inl ⟨_, _, _, by simp, write rfl h⟩))))))
  case sleep =>
    exact .inr (.inr (.inr (.inr (.inr (.inr (.inl ⟨_, _, _, by simp, write rfl h⟩))))))
  case frame payload =>
    rw [exec, execFrame] at h
    split at h
    · exact .inr (.inr (.inr (.inr (.inr (.inr (.inl ⟨_, _, _, by simp, write rfl h⟩))))))
    · cases h
  case rdy =>
    obtain ⟨hp, h⟩ := atPhase_next h
    refine .inr (.inr (.inr (.inr (.inr (.inr (.inr ⟨_, _, .inl rfl, rfl, hp, ?_⟩))))))
    rcases readStep_cases h with ⟨b, rest, hf, ho, hq, ht⟩ | ⟨info, u, ht, hu⟩ | ⟨hf, ho, hq, ht⟩
    · split at ht
      · rename_i hb
        exact .inl ⟨rest, hf, ho, hb ▸ hq, ht⟩
      · exact .inr (.inl ⟨_, _, ht, .inl ⟨b, rest, hq, rfl⟩⟩)
    · exact .inr (.inl ⟨_, _, ht, .inr (hu.imp id And.right)⟩)
    · exact .inr (.inr ⟨hf, ho, hq, ht⟩)
  case fack =>
    obtain ⟨hp, h⟩ := atPhase_next h
    refine .inr (.inr (.inr (.inr (.inr (.inr (.inr ⟨_, _, .inr (.inl rfl), rfl, hp, ?_⟩))))))
    rcases readStep_cases h with ⟨b, rest, hf, ho, hq, ht⟩ | ⟨info, u, ht, hu⟩ | ⟨hf, ho, hq, ht⟩
    · split at ht
      · rename_i hb
        exact .inl ⟨rest, hf, ho, hb ▸ hq, ht⟩
      · exact .inr (.inl ⟨_, _, ht, .inl ⟨b, rest, hq, rfl⟩⟩)
    · exact .inr (.inl ⟨_, _, ht, .inr (hu.imp id And.right)⟩)
    · exact .inr (.inr ⟨hf, ho, hq, ht⟩)
  case sack =>
    obtain ⟨hp, h⟩ := atPhase_next h
    refine .inr (.inr (.inr (.inr (.inr (.inr (.inr ⟨_, _, .inr (.inr rfl), rfl, hp, ?_⟩))))))
    rcases readStep_cases h with ⟨b, rest, hf, ho, hq, ht⟩ | ⟨info, u, ht, hu⟩ | ⟨hf, ho, hq, ht⟩
    · split at ht
      · rename_i hb
        exact .inl ⟨rest, hf, ho, hb ▸ hq, ht⟩
      · exact .inr (.inl ⟨_, _, ht, .inl ⟨b, rest, hq, rfl⟩⟩)
    · exact .inr (.inl ⟨_, _, ht, .inr (hu.imp id And.right)⟩)
    · exact .inr (.inr ⟨hf, ho, hq, ht⟩)

end Sys2Proof.Machine
end

