-- ==== Sys2Proof/Laws/PerInstr.lean ====
section
/-! SUPPORT. One statement per instruction, as syntax: its encoding has the width its row of spec/opcode_table.json
gives. -/

namespace Sys2Proof.Laws.Width

/-- A well-formed instruction's encoding holds as many bits as its row says. -/
def Statement (i : Instr) : Prop := i.wf = true → (encode i).bits = tableWidth i

theorem rdy : Statement .rdy := fun _ => rfl

theorem beginTx : Statement .beginTx := fun _ => rfl

theorem frame (payload : List Byte) : Statement (.frame payload) := fun h => by
  have hl : payload.length = 320784 := by simpa [Instr.wf, cfg] using h
  simp [encode, Code.bits, tableWidth, hl]

theorem fack : Statement .fack := fun _ => rfl

theorem sleep : Statement .sleep := fun _ => rfl

theorem sack : Statement .sack := fun _ => rfl

theorem black : Statement .black := fun _ => rfl

theorem pixReserved01 : Statement .pixReserved01 := fun _ => rfl

theorem white : Statement .white := fun _ => rfl

theorem red : Statement .red := fun _ => rfl

theorem cmdReserved000 : Statement .cmdReserved000 := fun _ => rfl

theorem pack : Statement .pack := fun _ => rfl

theorem openLink : Statement .openLink := fun _ => rfl

theorem transmit : Statement .transmit := fun _ => rfl

theorem closeLink : Statement .closeLink := fun _ => rfl

theorem cmdReserved101 : Statement .cmdReserved101 := fun _ => rfl

theorem cmdReserved110 : Statement .cmdReserved110 := fun _ => rfl

theorem cmdReserved111 : Statement .cmdReserved111 := fun _ => rfl

end Sys2Proof.Laws.Width
end

