-- ==== Sys2Proof/Laws/Session.lean ====
section
/-! SUPPORT. What the device, a round and a command of the host can do, said once. -/

namespace Sys2Proof.Machine

/-- The device changes nothing of the machine but what is received. -/
theorem deviceStep_frame (d : Device) (s : State) : ∃ q, (deviceStep d s).2 = { s with rxq := q } := by
  have send : ∀ b, ∃ q, envStep (.devSend b) s = { s with rxq := q } := fun b => by
    simp only [envStep]
    split
    · exact ⟨_, rfl⟩
    · exact ⟨s.rxq, rfl⟩
  have same : ∃ q, s = { s with rxq := q } := ⟨s.rxq, rfl⟩
  unfold deviceStep
  split
  · exact same
  · exact send _
  · split
    · exact same
    · split
      · exact send _
      · exact same
  · dsimp only
    split
    · exact send _
    · exact same
  · exact same

/-- A round is an act of the device and then a step of the machine. -/
theorem round_cases {w w' : World} (h : round w = some w') :
    ∃ q, step { w.machine with rxq := q } = .next w'.machine
      ∧ w'.device = (deviceStep w.device w.machine).1 := by
  obtain ⟨q, hq⟩ := deviceStep_frame w.device w.machine
  unfold round at h
  rw [hq] at h
  split at h
  · cases h
    exact ⟨q, ‹_›, rfl⟩
  · cases h
  · cases h

/-- A round from the device's act and the machine's step. -/
theorem round_of {d d' : Device} {s s' t : State} (hd : deviceStep d s = (d', s')) (hs : step s' = .next t) :
    round { machine := s, device := d } = some { machine := t, device := d' } := by
  simp only [round, hd, hs]

/-- A round that delivers no result, and one that does. -/
theorem awaitResult_goes_on {fuel n : Nat} {w w' : World} (h : round w = some w') (hn : ¬ n < w'.machine.results.length) :
    awaitResult (fuel + 1) n w = awaitResult fuel n w' := by
  simp only [awaitResult, h, if_neg hn]

theorem awaitResult_ends {fuel n : Nat} {w w' : World} (h : round w = some w') (hn : n < w'.machine.results.length) :
    awaitResult (fuel + 1) n w = some w' := by
  simp only [awaitResult, h, if_pos hn]

/-- What holds while a command is in progress (`P`) and what holds once its result is there (`Q`), whatever the device
does: if every step leads from `P` to `P` or to `Q`, an awaited result finds `Q`. -/
theorem awaitResult_invariant {P Q : State → Prop} {n : Nat} (hstep : ∀ s t, P s → step s = .next t → P t ∨ Q t)
    (hrxq : ∀ s q, P s → P { s with rxq := q }) (hP : ∀ s, P s → s.results.length = n)
    (hQ : ∀ s, Q s → n < s.results.length) :
    ∀ {fuel w w'}, P w.machine → awaitResult fuel n w = some w' → Q w'.machine := by
  intro fuel
  induction fuel with
  | zero => intro w w' _ h; cases h
  | succ fuel ih =>
    intro w w' hp h
    unfold awaitResult at h
    split at h
    · cases h
    · rename_i v hv
      obtain ⟨q, hs, _⟩ := round_cases hv
      have hpq := hstep _ _ (hrxq _ q hp) hs
      split at h
      · cases h
        rename_i hn
        exact hpq.resolve_left (fun hv => absurd (hP _ hv) (Nat.ne_of_gt hn))
      · rename_i hn
        exact ih (hpq.resolve_right (fun hv => hn (hQ _ hv))) h

/-- A command's result, from the state in which it stands at the port. -/
theorem issueCommand_of {op : BitVec 3} {w w' : World} {m : State} {n : Nat} {r : Result}
    (hm : envStep (.issue op) w.machine = m) (hs : m.sched = []) (hn : m.results.length = n)
    (ha : awaitResult 16 n { w with machine := m } = some w') (hr : w'.machine.results.getLast? = some r) :
    issueCommand op w = some (r, w') := by
  subst hm hn
  have h16 : roundsFor (envStep (.issue op) w.machine) = 16 := by rw [roundsFor, hs]; rfl
  simp only [issueCommand, h16, ha, hr]

/-- What a command that came to its end has gone through. -/
theorem issueCommand_cases {op : BitVec 3} {w w' : World} {r : Result} (h : issueCommand op w = some (r, w')) :
    ∃ fuel, awaitResult fuel (envStep (.issue op) w.machine).results.length
        { w with machine := envStep (.issue op) w.machine } = some w'
      ∧ w'.machine.results.getLast? = some r := by
  unfold issueCommand at h
  dsimp only at h
  split at h
  · cases h
  · split at h
    · cases h
    · cases h
      exact ⟨_, ‹_›, ‹_›⟩

end Sys2Proof.Machine
end

