-- ==== Sys2Proof/Tests/Slice0.lean ====
section
/-! SUPPORT. Tests on small states, with expected results from spec/95_test_vectors.md or from the rule named, and for
every statement with hypotheses a state and operands that meet them all. -/

namespace Sys2Proof.Machine

/-! ### Well-formedness -/

/-- One byte is no FRAME (30_encoding.md R63). -/
theorem test_wf_refuses_short_frame : (Instr.frame [0x72#8]).wf = false := by decide

theorem test_wf_refuses_empty_frame : (Instr.frame []).wf = false := by decide

/-- Any 320,784 bytes are. -/
theorem test_wf_frame : (Instr.frame (List.replicate 320784 0x72#8)).wf = true := by
  rw [Instr.wf, List.length_replicate]; rfl

/-! ### Decoding: words written out from 30_encoding.md R61, R65, R76 -/

theorem test_decode_rdy : decode (.rx .openWait [0b01110010#8, 0b11111111#8]) = .ok (.rdy, [0b11111111#8]) := by rfl

theorem test_decode_begin : decode (.tx .txCmd [0b01110010#8]) = .ok (.beginTx, []) := by rfl

theorem test_decode_fack : decode (.rx .txAck [0b01110010#8]) = .ok (.fack, []) := by rfl

theorem test_decode_sleep : decode (.tx .clCmd [0b01110011#8]) = .ok (.sleep, []) := by rfl

theorem test_decode_sack : decode (.rx .clAck [0b01110011#8]) = .ok (.sack, []) := by rfl

/-- The payload has no fixed bit: 320,784 bytes 0x72 are a frame, and a byte behind them stays. -/
theorem test_decode_frame :
    decode (.tx .txData (List.replicate 320784 0b01110010#8 ++ [0b01110011#8]))
      = .ok (.frame (List.replicate 320784 0b01110010#8), [0b01110011#8]) := by
  have h : cfg.frameBytes = (List.replicate 320784 (0b01110010#8 : Byte)).length := by rw [List.length_replicate]; rfl
  simp only [decode, decodeTx]
  rw [h, List.take_left, List.drop_left, if_pos rfl]

theorem test_decode_black : decode (.pix 0b00#2) = .ok (.black, []) := by rfl

theorem test_decode_pixReserved01 : decode (.pix 0b01#2) = .ok (.pixReserved01, []) := by rfl

theorem test_decode_white : decode (.pix 0b10#2) = .ok (.white, []) := by rfl

theorem test_decode_red : decode (.pix 0b11#2) = .ok (.red, []) := by rfl

theorem test_decode_cmdReserved000 : decode (.cmd 0b000#3) = .ok (.cmdReserved000, []) := by rfl

theorem test_decode_pack : decode (.cmd 0b001#3) = .ok (.pack, []) := by rfl

theorem test_decode_open : decode (.cmd 0b010#3) = .ok (.openLink, []) := by rfl

theorem test_decode_transmit : decode (.cmd 0b011#3) = .ok (.transmit, []) := by rfl

theorem test_decode_close : decode (.cmd 0b100#3) = .ok (.closeLink, []) := by rfl

theorem test_decode_cmdReserved101 : decode (.cmd 0b101#3) = .ok (.cmdReserved101, []) := by rfl

theorem test_decode_cmdReserved110 : decode (.cmd 0b110#3) = .ok (.cmdReserved110, []) := by rfl

theorem test_decode_cmdReserved111 : decode (.cmd 0b111#3) = .ok (.cmdReserved111, []) := by rfl

/-- 's' at OPEN's read is a wrong byte (30_encoding.md R67). -/
theorem test_decode_wrong_byte : decode (.rx .openWait [0x73#8]) = .error (.illegalByte 0x73#8) := by rfl

theorem test_tableWord_transmit : decodeTableWord 3 0b011 = some .transmit := by rfl

theorem test_tableWord_red : decodeTableWord 2 0b11 = some .red := by rfl

theorem test_tableWord_sleep : decodeTableWord 8 0x73 = some .sleep := by rfl

/-! ### The frame encoder: 95_test_vectors.md, 2.1 to 2.3 and 2.8 -/

/-- V1a, V1c, V1d, V1g, V1i, V1j, V1l. -/
theorem test_quantize :
    quantize 0#8 = .black ∧ quantize 31#8 = .black ∧ quantize 32#8 = .red ∧ quantize 128#8 = .red
    ∧ quantize 222#8 = .red ∧ quantize 223#8 = .white ∧ quantize 255#8 = .white := by decide

/-- A row of eight cells. -/
def rowOf (l : List Byte) : Nat → Nat → Byte := fun _ c => l.getD c 0#8

/-- V2f. -/
theorem test_packByte_V2f :
    packByte (rowOf [0#8, 128#8, 255#8, 0#8, 128#8, 255#8, 0#8, 128#8]) .msb 0 0 = 0x6D#8
    ∧ packByte (rowOf [0#8, 128#8, 255#8, 0#8, 128#8, 255#8, 0#8, 128#8]) .lsb 0 0 = 0x49#8 := by decide

/-- V2g. -/
theorem test_packByte_V2g :
    packByte (rowOf [31#8, 32#8, 222#8, 223#8, 31#8, 32#8, 222#8, 223#8]) .msb 0 0 = 0x77#8
    ∧ packByte (rowOf [31#8, 32#8, 222#8, 223#8, 31#8, 32#8, 222#8, 223#8]) .lsb 0 0 = 0x66#8 := by decide

/-- VLa, VLe, VLh, VLl, VLo, VLq, VLu. -/
theorem test_locate :
    locate 0 0 = ⟨160392, 200244, 7⟩ ∧ locate 0 648 = ⟨240096, 280440, 7⟩ ∧ locate 100 100 = ⟨168504, 208356, 3⟩
    ∧ locate 491 1303 = ⟨280439, 320783, 0⟩ ∧ locate 492 648 = ⟨0, 40344, 7⟩ ∧ locate 500 700 = ⟨662, 41006, 3⟩
    ∧ locate 983 1303 = ⟨40343, 80687, 0⟩ := by decide

/-- A raster of the panel's shape with every cell 0, and a few other values. -/
def rasterWith (cells : List ((Nat × Nat) × Int)) : Raster :=
  { rows := 984, cols := 1304, base := 0, cells := cells }

/-- V4, V6, V8: valid rasters. -/
theorem test_valid_rasters :
    (rasterWith []).valid = true ∧ (rasterWith [((500, 700), 255)]).valid = true
    ∧ (rasterWith [((0, 0), 255), ((0, 1303), 100), ((983, 0), 223), ((983, 1303), 32)]).valid = true := by decide

/-- V14a, V14d, V14e, V14f, V14g, V14h: invalid ones. -/
theorem test_invalid_rasters :
    Raster.valid ⟨983, 1304, 0, []⟩ = false ∧ Raster.valid ⟨1304, 984, 0, []⟩ = false
    ∧ Raster.valid ⟨0, 0, 0, []⟩ = false ∧ (rasterWith [((983, 1303), 256)]).valid = false
    ∧ (rasterWith [((0, 0), -1)]).valid = false := by decide

/-- V6: the frame of one white cell has 0x08 at offset 662. -/
theorem test_frame_V6 (n : Nat) (h : n = 662) :
    (packFrame (rasterWith [((500, 700), 255)]).cell8)[segBase .bottomRight .msb + n]? = some 0x08#8 := by
  subst h
  rw [packFrame_getElem? _ _ _ _ (by decide)]
  decide

/-- V15d: an LSB bit without its MSB bit reads as no level; V15a to c read as their levels. -/
theorem test_levelOf :
    levelOf 0b01#2 = none ∧ levelOf 0b00#2 = some .black ∧ levelOf 0b10#2 = some .white
    ∧ levelOf 0b11#2 = some .red := by decide

/-! ### Single transitions: 95_test_vectors.md, 2.10 -/

/-- A state of the link engine with an open transport: the PHASE, LINK_STATE and received bytes. -/
def linkAt (p : Phase) (l : LinkState) (rx : List Byte) : State :=
  { State.reset with phase := p, linkState := l, tOpen := true, rxq := rx }

/-- What an instruction's next state shows of the link. -/
def shows (o : Out) (p : Phase) (l : LinkState) (f : LinkFault) (r : List Result) (tx : List Byte) (closes : Nat) : Prop :=
  ∃ t, o = .next t ∧ t.phase = p ∧ t.linkState = l ∧ t.linkFault = f ∧ t.results = r ∧ t.txh = tx ∧ t.tcloses = closes

/-- V16a. -/
theorem test_open_ready : shows (exec .rdy (linkAt .openWait .closed [0x72#8])) .idle .awake .none [.ok] [] 0 :=
  ⟨_, rfl, rfl, rfl, rfl, rfl, rfl, rfl⟩

/-- V16d: 'R' is not 'r'. -/
theorem test_open_wrong_byte :
    shows (exec .rdy (linkAt .openWait .closed [0x52#8])) .idle .closed .linkInitError [.linkInitError] [] 1 :=
  ⟨_, rfl, rfl, rfl, rfl, rfl, rfl, rfl⟩

/-- V16w: nothing comes, nothing changes. -/
theorem test_open_waits : exec .rdy (linkAt .openWait .closed []) = .next (linkAt .openWait .closed []) := by rfl

/-- V16f: a fault is cleared when OPEN is accepted. -/
theorem test_open_accepted :
    shows (exec .openLink { linkAt .idle .closed [0x72#8] with linkFault := .frameNotAcknowledged })
      .openWait .closed .none [] [] 0 :=
  ⟨_, rfl, rfl, rfl, rfl, rfl, rfl, rfl⟩

/-- V16u. -/
theorem test_open_refused : shows (exec .openLink (linkAt .idle .awake [])) .idle .awake .none [.commandRefused] [] 0 :=
  ⟨_, rfl, rfl, rfl, rfl, rfl, rfl, rfl⟩

theorem test_transmit_accepted :
    shows (exec .transmit { linkAt .idle .awake [] with fbValid := true }) .txCmd .transmitting .none [] [] 0 :=
  ⟨_, rfl, rfl, rfl, rfl, rfl, rfl, rfl⟩

/-- V16t. -/
theorem test_transmit_refused :
    shows (exec .transmit (linkAt .idle .awake [])) .idle .awake .none [.commandRefused] [] 0 :=
  ⟨_, rfl, rfl, rfl, rfl, rfl, rfl, rfl⟩

theorem test_begin_written : shows (exec .beginTx (linkAt .txCmd .transmitting [])) .txData .transmitting .none [] [0x72#8] 0 :=
  ⟨_, rfl, rfl, rfl, rfl, rfl, rfl, rfl⟩

/-- V16j: the write fails, nothing sent. -/
theorem test_begin_fails :
    shows (exec .beginTx { linkAt .txCmd .transmitting [] with failNext := some ⟨5, 0⟩ })
      .idle .closed .transportError [.transportError 5] [] 1 :=
  ⟨_, rfl, rfl, rfl, rfl, rfl, rfl, rfl⟩

/-- V16g, the payload write: the bytes go out as they are. -/
theorem test_frame_written :
    exec (.frame (List.replicate 320784 0x73#8)) (linkAt .txData .transmitting [])
      = .next { linkAt .txAck .transmitting [] with txh := List.replicate 320784 0x73#8 } := by
  rw [exec_frame_at (by rw [List.length_replicate]; rfl) rfl]
  rfl

/-- V16k: a prefix of three bytes goes out. -/
theorem test_frame_cut :
    exec (.frame (List.replicate 320784 0x73#8)) { linkAt .txData .transmitting [] with failNext := some ⟨5, 3⟩ }
      = .next (afterFailure (.transportError 5) .transportError
          { linkAt .txData .transmitting [] with txh := (List.replicate 320784 0x73#8).take 3 })
    ∧ (List.replicate 320784 0x73#8).take 3 = [0x73#8, 0x73#8, 0x73#8] := by
  refine ⟨?_, ?_⟩
  · rw [exec_frame_at (by rw [List.length_replicate]; rfl) rfl]
    rfl
  · rw [List.take_replicate]; rfl

/-- V16g. -/
theorem test_fack : shows (exec .fack (linkAt .txAck .transmitting [0x72#8])) .idle .awake .none [.ok] [] 0 :=
  ⟨_, rfl, rfl, rfl, rfl, rfl, rfl, rfl⟩

/-- V16h. -/
theorem test_fack_wrong_byte :
    shows (exec .fack (linkAt .txAck .transmitting [0x73#8]))
      .idle .closed .frameNotAcknowledged [.frameNotAcknowledged] [] 1 :=
  ⟨_, rfl, rfl, rfl, rfl, rfl, rfl, rfl⟩

theorem test_close_accepted : shows (exec .closeLink (linkAt .idle .awake [])) .clCmd .awake .none [] [] 0 :=
  ⟨_, rfl, rfl, rfl, rfl, rfl, rfl, rfl⟩

/-- V16q: after a failure CLOSE does nothing. -/
theorem test_close_after_failure :
    shows (exec .closeLink { State.reset with linkFault := .frameNotAcknowledged })
      .idle .closed .frameNotAcknowledged [.ok] [] 0 :=
  ⟨_, rfl, rfl, rfl, rfl, rfl, rfl, rfl⟩

theorem test_sleep_written : shows (exec .sleep (linkAt .clCmd .awake [])) .clAck .awake .none [] [0x73#8] 0 :=
  ⟨_, rfl, rfl, rfl, rfl, rfl, rfl, rfl⟩

/-- V16o. -/
theorem test_sleep_fails :
    shows (exec .sleep { linkAt .clCmd .awake [] with failNext := some ⟨9, 0⟩ })
      .idle .closed .transportError [.transportError 9] [] 1 :=
  ⟨_, rfl, rfl, rfl, rfl, rfl, rfl, rfl⟩

/-- V16m. -/
theorem test_sack : shows (exec .sack (linkAt .clAck .awake [0x73#8])) .idle .closed .none [.ok] [] 1 :=
  ⟨_, rfl, rfl, rfl, rfl, rfl, rfl, rfl⟩

/-- V16n. -/
theorem test_sack_wrong_byte :
    shows (exec .sack (linkAt .clAck .awake [0x72#8])) .idle .closed .sleepNotAcknowledged [.sleepNotAcknowledged] [] 1 :=
  ⟨_, rfl, rfl, rfl, rfl, rfl, rfl, rfl⟩

/-- V14e: PACK of a raster that is not valid. -/
theorem test_pack_invalid : shows (exec .pack State.reset) .idle .closed .none [.invalidFrame] [] 0 :=
  ⟨_, rfl, rfl, rfl, rfl, rfl, rfl, rfl⟩

/-- V4: PACK of the black raster completes with Ok and sets FB_VALID. -/
theorem test_pack_valid :
    ∃ t, exec .pack { State.reset with ras := rasterWith [] } = .next t ∧ t.fbValid = true ∧ t.results = [.ok] :=
  ⟨_, exec_pack_valid rfl (by decide), rfl, rfl⟩

/-- V16v. -/
theorem test_cmdReserved101 : shows (exec .cmdReserved101 State.reset) .idle .closed .none [.commandRefused] [] 0 :=
  ⟨_, rfl, rfl, rfl, rfl, rfl, rfl, rfl⟩

theorem test_cmdReserved111 : shows (exec .cmdReserved111 State.reset) .idle .closed .none [.commandRefused] [] 0 :=
  ⟨_, rfl, rfl, rfl, rfl, rfl, rfl, rfl⟩

/-- V2d, one cell: the leftmost cell White is 0x80 in the MSB plane and 0x00 in the LSB plane. -/
theorem test_white : ∃ t, exec .white State.reset = .next t ∧ t.lanes = ⟨1#3, 0x80#8, 0x00#8⟩ := ⟨_, rfl, by decide⟩

theorem test_red : ∃ t, exec .red State.reset = .next t ∧ t.lanes = ⟨1#3, 0x80#8, 0x80#8⟩ := ⟨_, rfl, by decide⟩

/-- V2e: after seven Black cells the rightmost Red is 0x01 in both planes. -/
theorem test_red_last :
    ∃ t, exec .red { State.reset with lanes := ⟨7#3, 0#8, 0#8⟩ } = .next t ∧ t.lanes = ⟨0#3, 0x01#8, 0x01#8⟩ :=
  ⟨_, rfl, by decide⟩

/-- A group begins from 0 whatever the last one left (40_frame_encoder.md R95). -/
theorem test_black :
    ∃ t, exec .black { State.reset with lanes := ⟨0#3, 0xFF#8, 0xFF#8⟩ } = .next t ∧ t.lanes = ⟨1#3, 0#8, 0#8⟩ :=
  ⟨_, rfl, by decide⟩

/-! ### The step -/

/-- A word of the table is the next instruction of reset: the code 010 is OPEN, accepted. -/
theorem test_withFetchWord_open :
    shows (step (State.reset.withFetchWord 3 0b010)) .openWait .closed .none [] [] 0 :=
  ⟨_, rfl, rfl, rfl, rfl, rfl, rfl, rfl⟩

/-- The byte 0x73 is SLEEP. -/
theorem test_withFetchWord_sleep : shows (step (State.reset.withFetchWord 8 0x73)) .clAck .awake .none [] [0x73#8] 0 :=
  ⟨_, rfl, rfl, rfl, rfl, rfl, rfl, rfl⟩

/-- A device's byte goes to the tail of RXQ (41_link_protocol.md R115 a). -/
theorem test_devSend :
    step { linkAt .idle .closed [1#8] with sched := [.env (.devSend 2#8)] } = .next (linkAt .idle .closed [1#8, 2#8]) := by
  rfl

/-- An out-of-band close is not counted in TCLOSES (41_link_protocol.md R115 d). -/
theorem test_oobClose :
    step { linkAt .openWait .closed [] with sched := [.env .oobClose] }
      = .next { linkAt .openWait .closed [] with tOpen := false } := by rfl

/-! ### Witnesses: states and operands that meet the hypotheses of the statements -/

/-- A payload of the right length. -/
def blackFrame : List Byte := List.replicate 320784 0#8

theorem blackFrame_length : blackFrame.length = 320784 := List.length_replicate

theorem blackFrame_get {k : Nat} (h : k < 320784) : blackFrame[k]? = some 0#8 := by
  unfold blackFrame
  rw [List.getElem?_replicate, if_pos h]

/-- A frame buffer that holds it. -/
def blackFb : Memory := cellsFrom 0 blackFrame

theorem blackFb_wf : Memory.wf blackFb := cellsFrom_wf _ _

theorem blackFb_offsets : blackFb.map (·.1) = frameOffsets := by
  rw [blackFb, cellsFrom_offsets, frameOffsets_eq, blackFrame_length]; rfl

theorem blackFb_read : memRead blackFb 0 320784 = some blackFrame := by
  have h := memRead_cellsFrom blackFrame []
  rw [List.append_nil, blackFrame_length] at h
  exact h

/-- StatusCodesReadBack: a result with an info, and the same info beside its code. -/
theorem witness_result (i : Info) (h : Result.transportError 7 = .transportError i) : i = 7 := by cases h; rfl

/-- At a PHASE with a frame to send. -/
def sendingAt (p : Phase) (l : LinkState) (rx : List Byte) : State :=
  { linkAt p l rx with fb := blackFb, fbValid := true }

theorem sendingAt_fb (p : Phase) (l : LinkState) (rx : List Byte) : (sendingAt p l rx).fb = blackFb := rfl

theorem frameBytes_value : cfg.frameBytes = 320784 := rfl

theorem sendingAt_held (p : Phase) (l : LinkState) (rx : List Byte) : frameHeld (sendingAt p l rx) :=
  ⟨fun _ => blackFb_offsets, fun h => (by cases h)⟩

/-- The black raster at the port, and one that is not valid. -/
def packing : State := { State.reset with ras := rasterWith [] }

theorem packing_valid : packing.ras.valid = true := by decide

theorem reset_held : frameHeld State.reset := ⟨fun h => (by cases h), fun _ => rfl⟩

/-- StepRunsTheFetchedInstruction: its five clauses. -/
theorem witness_step :
    (blockTurn { State.reset with port := some (.cmd 1#3), sched := [.block] } { State.reset with port := some (.cmd 1#3) }
      ∧ fetch { State.reset with port := some (.cmd 1#3) } = .run .pack)
    ∧ (blockTurn State.reset State.reset ∧ State.reset.phase = .idle ∧ State.reset.port = none)
    ∧ fetch (linkAt .txData .transmitting []) = .stop .unwrittenFrame
    ∧ (linkAt .txData .transmitting []).sched = [] :=
  ⟨⟨.inr ⟨[], rfl, rfl⟩, rfl⟩, ⟨.inl ⟨rfl, rfl⟩, rfl, rfl⟩, rfl, rfl⟩

/-- StepRunsTheFetchedInstruction and EnvironmentSteps: each step of the environment can come next. -/
theorem witness_step_env (e : EnvStep) : { State.reset with sched := [.env e] }.sched = .env e :: [] := rfl

/-- EachPhaseFetchesItsToken, TransmitWritesTheFrameBuffer: TxData with a whole frame, and the last of its bytes. -/
theorem witness_txData :
    (sendingAt .txData .transmitting []).phase = .txData ∧ Memory.wf (sendingAt .txData .transmitting []).fb
    ∧ memRead (sendingAt .txData .transmitting []).fb 0 320784 = some blackFrame ∧ 320783 < 320784 :=
  ⟨rfl, blackFb_wf, blackFb_read, by decide⟩

/-- The seven phases, each with an open transport. -/
theorem witness_phases (p : Phase) (l : LinkState) : (linkAt p l []).phase = p ∧ (linkAt p l []).linkState = l := ⟨rfl, rfl⟩

/-- ReceivedByteIsOneTokenOrIllegal: a PHASE that reads nothing. -/
theorem witness_no_read : Phase.txData ≠ .openWait ∧ Phase.txData ≠ .txAck ∧ Phase.txData ≠ .clAck := by decide

/-- DecodeOfEncodeIsTheInstruction, MessagesReadBackAsSent, OutOfPhaseThereIsNoStep: FRAME is well-formed. -/
theorem witness_frame : (Instr.frame blackFrame).wf = true ∧ blackFrame.length = 320784
    ∧ encode (.frame blackFrame) = .tx .txData blackFrame ∧ encode .rdy = .rx .openWait [0x72#8] :=
  ⟨by rw [Instr.wf, blackFrame_length]; rfl, blackFrame_length, rfl, rfl⟩

/-- QuantizeByThreeRanges: both ends of each range. PlaneBitsOfAnIntensity: its implication. -/
theorem witness_ranges :
    (0#8).toNat < 32 ∧ (31#8).toNat < 32 ∧ (32 ≤ (32#8).toNat ∧ (32#8).toNat ≤ 222)
    ∧ (32 ≤ (222#8).toNat ∧ (222#8).toNat ≤ 222) ∧ 222 < (223#8).toNat ∧ 222 < (255#8).toNat
    ∧ planeBit .lsb 32#8 = true ∧ planeBit .lsb 222#8 = true := by decide

/-- LocateIsABijection: the last cell, two cells of one bit, the last bit. -/
theorem witness_locate :
    (983 < 984 ∧ 1303 < 1304) ∧ (locate 0 0).bit = (locate 0 8).bit
    ∧ (locate 983 1303).msbOffset = (locate 983 1296).msbOffset ∧ (locate 983 1303).lsbOffset = (locate 983 1303).lsbOffset
    ∧ (320783 < 320784 ∧ 7 < 8) := by decide

/-- EightPixelCodesMakeTwoBytes. -/
theorem witness_lanes : State.reset.lanes.lane = 0#3 ∧ 7 < 8 := by decide

/-- PackPutsEveryCellInItsPlace, UnpackOfPackGivesTheLevels: a valid raster at Idle; the first offset behind the buffer. -/
theorem witness_pack :
    packing.phase = .idle ∧ packing.ras.valid = true ∧ Memory.wf packing.fb ∧ 320783 < 320784 ∧ 320784 ≤ 320784
    ∧ (983 < 984 ∧ 1303 < 1304) :=
  ⟨rfl, packing_valid, reset_memory_wf, by decide, by decide, by decide⟩

/-- InvalidRasterChangesNothing, PackPutsEveryCellInItsPlace: not valid by its shape, and by one cell. -/
theorem witness_pack_invalid :
    State.reset.phase = .idle ∧ State.reset.ras.valid = false
    ∧ ({ State.reset with ras := rasterWith [((983, 1303), 256)] } : State).ras.valid = false := by decide

/-- FrameBytesFollowTheLayout: PACK completes, and the last byte of the longest segment. -/
theorem witness_pack_next :
    packing.ras.valid = true ∧ (∃ t, exec .pack packing = .next t)
    ∧ 40343 < 492 * (quadWidth .bottomRight / 8) ∧ 39851 < 492 * (quadWidth .topLeft / 8)
    ∧ quadCol .bottomRight ≤ 648 :=
  ⟨packing_valid, ⟨_, exec_pack_valid rfl packing_valid⟩, by decide, by decide, by decide⟩

/-- FramesAgreeExactlyWhenLevelsDo: two states with valid rasters, one buffer empty and one whole. -/
theorem witness_frames_agree :
    frameHeld packing ∧ frameHeld { packing with fb := blackFb, fbValid := true }
    ∧ (∃ t, exec .pack packing = .next t)
    ∧ ∃ t, exec .pack { packing with fb := blackFb, fbValid := true } = .next t :=
  ⟨reset_held, ⟨fun _ => blackFb_offsets, fun h => (by cases h)⟩, ⟨_, exec_pack_valid rfl packing_valid⟩,
    ⟨_, exec_pack_valid rfl packing_valid⟩⟩

/-- EveryLegalFrameIsPacked: the black frame. -/
theorem witness_legal_frame :
    blackFrame.length = 320784 ∧ ∀ r < 984, ∀ c < 1304, unpackCell blackFrame r c ≠ none := by
  refine ⟨blackFrame_length, fun r hr c hc => ?_⟩
  obtain ⟨h1, h2, _⟩ := locate_lt hr hc
  simp only [unpackCell, blackFrame_get h1, blackFrame_get h2]
  simp [levelOf]

/-- UnpackRejectsTheReservedCode: V15d. -/
theorem witness_reserved_code :
    492 < 984 ∧ 648 < 1304 ∧ (blackFrame.set 40344 0x80#8)[(locate 492 648).msbOffset]? = some 0x00#8
    ∧ (blackFrame.set 40344 0x80#8)[(locate 492 648).lsbOffset]? = some 0x80#8
    ∧ (0x00#8).getLsbD (locate 492 648).bit = false ∧ (0x80#8).getLsbD (locate 492 648).bit = true := by
  have h0 : (locate 492 648).msbOffset = 0 := by decide
  have h1 : (locate 492 648).lsbOffset = 40344 := by decide
  refine ⟨by decide, by decide, ?_, ?_, by decide, by decide⟩
  · rw [h0, List.getElem?_set_ne (by decide)]
    exact blackFrame_get (by decide)
  · rw [h1, List.getElem?_set_self (by rw [blackFrame_length]; decide)]

/-- The acceptance of the commands: OPEN, TRANSMIT, CLOSE, each accepted and refused, and CLOSE after a failure. -/
theorem witness_acceptance :
    (linkAt .idle .closed []).linkState = .closed
    ∧ ((sendingAt .idle .awake []).linkState = .awake ∧ (sendingAt .idle .awake []).fbValid = true)
    ∧ ((linkAt .idle .awake []).fbValid = false)
    ∧ (State.reset.linkState = .closed ∧ State.reset.linkFault = .none)
    ∧ ({ State.reset with linkFault := .transportError } : State).linkFault ≠ .none
    ∧ (linkAt .txCmd .transmitting []).phase ≠ .idle
    ∧ (phaseAgrees State.reset ∧ State.reset.phase = .idle) := by
  refine ⟨rfl, ⟨rfl, rfl⟩, rfl, ⟨rfl, rfl⟩, by decide, by decide, .inl rfl, rfl⟩

/-- CloseIsAcceptedAwake, third clause: SLEEP goes on to ClAck, and SACK waits. -/
theorem witness_close_goes_on :
    (∃ t, exec .sleep (linkAt .clCmd .awake []) = .next t ∧ t.phase ≠ .idle)
    ∧ ∃ t, exec .sack (linkAt .clAck .awake []) = .next t ∧ t.phase ≠ .idle :=
  ⟨⟨_, rfl, by decide⟩, ⟨_, rfl, by decide⟩⟩

/-- OutOfPhaseThereIsNoStep, APayloadOfAnotherLengthIsRefused. -/
theorem witness_out_of_phase :
    Instr.sack.wf = true ∧ phaseOfInstr .sack = some .clAck ∧ State.reset.phase ≠ .clAck
    ∧ phaseOfInstr (.frame blackFrame) = some .txData ∧ ([] : List Byte).length ≠ 320784 := by
  refine ⟨rfl, rfl, by decide, rfl, by decide⟩

/-- The reads and writes of the micro-steps: the right byte, a wrong byte, a failure, a closed transport, nothing. -/
theorem witness_reads (p : Phase) (l : LinkState) :
    ((linkAt p l [0x72#8]).failNext = none ∧ (linkAt p l [0x72#8]).tOpen = true ∧ (linkAt p l [0x72#8]).rxq = [0x72#8])
    ∧ ((linkAt p l [0x73#8, 1#8]).rxq = 0x73#8 :: [1#8] ∧ 0x73#8 ≠ 0x72#8)
    ∧ ((linkAt p l [0x00#8]).rxq = 0x00#8 :: [] ∧ 0x00#8 ≠ 0x72#8 ∧ 0x00#8 ≠ 0x73#8)
    ∧ ({ linkAt p l [] with failNext := some ⟨7, 0⟩ }.failNext = some ⟨7, 0⟩
      ∧ { linkAt p l [] with failNext := some ⟨7, 0⟩ }.tOpen = true)
    ∧ ({ linkAt p l [] with tOpen := false }.failNext = none ∧ { linkAt p l [] with tOpen := false }.tOpen = false)
    ∧ ({ linkAt p l [] with tOpen := false, failNext := some ⟨7, 1⟩ }.tOpen = false)
    ∧ (linkAt p l []).rxq = [] :=
  ⟨⟨rfl, rfl, rfl⟩, ⟨rfl, by decide⟩, ⟨rfl, by decide, by decide⟩, ⟨rfl, rfl⟩, ⟨rfl, rfl⟩, rfl, rfl⟩

/-- ErrorsRunTheFailureSequence: a link error, an InvalidFrame and a refusal are delivered. -/
theorem witness_errors :
    (∃ t, exec .fack (linkAt .txAck .transmitting [0x73#8]) = .next t
      ∧ t.results = (linkAt .txAck .transmitting [0x73#8]).results ++ [linkErrorResult .frameNotAcknowledged])
    ∧ (∃ t, exec .pack State.reset = .next t ∧ t.results = State.reset.results ++ [.invalidFrame])
    ∧ ∃ t, exec .transmit State.reset = .next t ∧ t.results = State.reset.results ++ [.commandRefused] :=
  ⟨⟨_, rfl, rfl⟩, ⟨_, rfl, rfl⟩, ⟨_, rfl, rfl⟩⟩

/-- AWaitNeverEnds, OutOfBandCloseEndsAWait: OPEN and TRANSMIT waiting. -/
theorem witness_waiting :
    (waiting (linkAt .openWait .closed []) ∧ (linkAt .openWait .closed []).sched = [])
    ∧ (waiting { linkAt .openWait .closed [] with sched := [.env .oobClose] })
    ∧ (waiting { linkAt .txAck .transmitting [] with sched := [.env .oobClose] }
      ∧ (linkAt .txAck .transmitting []).phase ≠ .openWait) :=
  ⟨⟨⟨.inl rfl, rfl, rfl, rfl⟩, rfl⟩, ⟨.inl rfl, rfl, rfl, rfl⟩, ⟨.inr (.inl rfl), rfl, rfl, rfl⟩, by decide⟩

/-- CommandFrame: a command that completes, in a buffer of canonical form. TokenFrame: a token read, and one written. -/
theorem witness_frames :
    (phaseOfInstr .closeLink = some .idle ∧ (∃ t, exec .closeLink State.reset = .next t) ∧ Memory.wf State.reset.fb
      ∧ 320784 ≤ 320784)
    ∧ (encode .rdy = .rx .openWait [0x72#8] ∧ ∃ t, exec .rdy (linkAt .openWait .closed [1#8]) = .next t)
    ∧ (encode .sleep = .tx .clCmd [0x73#8] ∧ ∃ t, exec .sleep (linkAt .clCmd .awake []) = .next t) :=
  ⟨⟨rfl, ⟨_, rfl⟩, reset_memory_wf, by decide⟩, ⟨rfl, _, rfl⟩, rfl, _, rfl⟩

/-- EveryStepKeepsTheInvariant, TheMachineNeverStops: TRANSMIT at its payload write, with its frame. -/
theorem witness_invariant :
    RunInv (sendingAt .txData .transmitting []) ∧ noPixelCode (sendingAt .txData .transmitting [])
    ∧ ∃ t, step (sendingAt .txData .transmitting []) = .next t := by
  refine ⟨⟨rfl, fun _ => rfl, sendingAt_held _ _ _, fun _ => rfl, fun _ => rfl⟩, fun code h => (by cases h), ?_⟩
  have hm : memRead (sendingAt .txData .transmitting []).fb 0 cfg.frameBytes = some blackFrame := by
    rw [sendingAt_fb, frameBytes_value]; exact blackFb_read
  have hl : blackFrame.length = cfg.frameBytes := by rw [blackFrame_length, frameBytes_value]
  have hs := step_txData (s := sendingAt .txData .transmitting []) rfl rfl hm hl
  rw [hs]
  exact writeStep_next _ _ _

/-- StepsKeepTheTransportAgreement: a byte of the device arrives on a live link; a failed link waits. -/
theorem witness_transport :
    (noTransportChange { linkAt .idle .awake [] with sched := [.env (.devSend 1#8)] }
      ∧ transportAgrees { linkAt .idle .awake [] with sched := [.env (.devSend 1#8)] })
    ∧ transportAgrees { State.reset with linkFault := .linkInitError } := by
  refine ⟨⟨fun e rest h => ?_, ⟨fun _ => rfl, fun h => (by cases h)⟩⟩, ⟨fun h => (by rcases h with h | h <;> cases h), fun _ _ => rfl⟩⟩
  cases h
  exact ⟨by simp, by simp⟩

/-- The statements about one step of any state: a step that delivers a result, one that closes, one that takes a byte. -/
theorem witness_steps :
    (∃ t, step { State.reset with port := some (.cmd 0#3) } = .next t ∧ t.results = [.commandRefused])
    ∧ (∃ t, step (linkAt .clAck .awake [0x73#8]) = .next t ∧ t.tcloses = 1 ∧ t.rxq = [])
    ∧ (∃ t, step (linkAt .clCmd .awake []) = .next t ∧ t.txh = [0x73#8]) :=
  ⟨⟨_, rfl, rfl⟩, ⟨_, rfl, rfl, rfl⟩, ⟨_, rfl, rfl⟩⟩

/-- A world whose device has just been reset, or waits for a message. -/
def worldAt (m : State) (mode : DeviceMode) : World := { machine := m, device := { mode := mode, taken := 0 } }

/-- ConformingDeviceMakesCommandsSucceed: before OPEN, and before TRANSMIT and CLOSE with a frame. -/
theorem witness_device :
    (LinkQuiet (worldAt (linkAt .idle .closed []) .started) ∧ (linkAt .idle .closed []).linkState = .closed)
    ∧ (LinkQuiet (worldAt (sendingAt .idle .awake []) .idle) ∧ (sendingAt .idle .awake []).linkState = .awake
      ∧ (sendingAt .idle .awake []).fbValid = true ∧ memRead (sendingAt .idle .awake []).fb 0 320784 = some blackFrame) :=
  ⟨⟨⟨rfl, rfl, rfl, rfl, rfl, rfl, rfl⟩, rfl⟩, ⟨rfl, rfl, rfl, rfl, rfl, rfl, rfl⟩, rfl, rfl, blackFb_read⟩

/-- The four statements about sessions: the reset state is Idle and Closed, with nothing at its port and a silent
environment. -/
theorem witness_session_start :
    State.reset.phase = .idle ∧ State.reset.linkState = .closed ∧ State.reset.port = none ∧ State.reset.sched = []
    ∧ State.reset.failNext = none ∧ (worldAt State.reset .started).device.mode = .started
    ∧ ∀ rx, Turn.env (.attach rx) ∉ State.reset.sched :=
  ⟨rfl, rfl, rfl, rfl, rfl, rfl, fun _ h => nomatch h⟩

/-- P11's first half, a session without frames: ASessionClosesExactlyOnce, ASuccessfulSessionSendsItsFrames. -/
theorem witness_session :
    ∃ w', session [] [] (worldAt State.reset .started) = some (.ok, w') ∧ w'.machine.txh = [0x73#8]
      ∧ w'.machine.tcloses = 1 := ⟨_, rfl, rfl, rfl⟩

/-- After the OPEN and the PACK of the session below, at TRANSMIT's payload write. -/
def midSession (fb : Memory) (p : Phase) (tx : List Byte) : State :=
  { linkAt p .transmitting [0x72#8, 0x73#8] with
    ras := rasterWith [], fb := fb, fbValid := true, txh := tx, results := [.ok, .ok] }

theorem midSession_round (fb : Memory) (frame : List Byte) (hm : memRead fb 0 cfg.frameBytes = some frame)
    (hl : frame.length = cfg.frameBytes) :
    round (worldAt (midSession fb .txData [0x72#8]) .silent)
      = some (worldAt (midSession fb .txAck ([0x72#8] ++ frame)) .silent) := by
  have hs : step (midSession fb .txData [0x72#8]) = .next (midSession fb .txAck ([0x72#8] ++ frame)) := by
    rw [step_txData (s := midSession fb .txData [0x72#8]) rfl rfl hm hl]
    rfl
  show (match step (midSession fb .txData [0x72#8]) with
    | .next t => some (worldAt t .silent) | .fault _ => none | .refused _ => none) = _
  rw [hs]

/-- A session whose OPEN is Ok and whose body and CLOSE come to an end. -/
theorem session_of {rx : List Byte} {body : List BodyOp} {b c : Result} {w w₁ w₂ w₃ : World}
    (ho : issueCommand 0b010#3 { w with machine := envStep (.attach rx) w.machine } = some (.ok, w₁))
    (hb : runBody body w₁ = some (b, w₂)) (hc : issueCommand 0b100#3 w₂ = some (c, w₃)) :
    session rx body w = some (surface b c, w₃) := by
  simp only [session, ho, hb, hc, if_pos]

/-- A body whose first operation sends its raster. -/
theorem runBody_send_of {ras : Raster} {w w₁ w₂ : World} (rest : List BodyOp)
    (hp : issueCommand 0b001#3 { w with machine := envStep (.present ras) w.machine } = some (.ok, w₁))
    (ht : issueCommand 0b011#3 w₁ = some (.ok, w₂)) : runBody (.send ras :: rest) w = runBody rest w₂ := by
  simp only [runBody, runBodyOp, sendRaster, hp, ht, if_pos]

/-- Before and after the PACK of the session below. -/
def packSession (fb : Memory) (valid : Bool) (port : Option Port) (r : List Result) : State :=
  { linkAt .idle .awake [0x72#8, 0x73#8] with
    ras := rasterWith [], fb := fb, fbValid := valid, port := port, results := r }

theorem packSession_round (fb : Memory) (h : writeSegments (rasterWith []).cell8 cfg.segOrder 0 [] = fb) :
    round (worldAt (packSession [] false (some (.cmd 0b001#3)) [.ok]) .silent)
      = some (worldAt (packSession fb true none [.ok, .ok]) .silent) := by
  have hs : step (packSession [] false (some (.cmd 0b001#3)) [.ok]) = .next (packSession fb true none [.ok, .ok]) := by
    rw [← h]
    exact exec_pack_valid (s := packSession [] false (some (.cmd 0b001#3)) [.ok]) rfl packing_valid
  show (match step (packSession [] false (some (.cmd 0b001#3)) [.ok]) with
    | .next t => some (worldAt t .silent) | .fault _ => none | .refused _ => none) = _
  rw [hs]

/-- After the OPEN, and after the SEND, of the sessions below. -/
def openedSession : State := { linkAt .idle .awake [0x72#8, 0x73#8] with results := [.ok] }

def sentSession (fb : Memory) (frame : List Byte) : State :=
  { packSession fb true none [.ok, .ok, .ok] with rxq := [0x73#8], txh := [0x72#8] ++ frame }

theorem openedSession_open : issueCommand 0b010#3 { worldAt State.reset .silent with
    machine := envStep (.attach [0x72#8, 0x72#8, 0x73#8]) (worldAt State.reset .silent).machine }
      = some (.ok, worldAt openedSession .silent) := by rfl

/-- The SEND of the black raster, its device's bytes already in RXQ. -/
theorem openedSession_sends : ∃ fb frame, ∀ rest, runBody (.send (rasterWith []) :: rest) (worldAt openedSession .silent)
    = runBody rest (worldAt (sentSession fb frame) .silent) := by
  have hm := memRead_writeSegments (rasterWith []).cell8 []
  have hl := packFrame_length (rasterWith []).cell8
  have hp := packSession_round _ rfl
  generalize writeSegments (rasterWith []).cell8 cfg.segOrder 0 [] = fb at hm hp
  generalize packFrame (rasterWith []).cell8 = frame at hm hl
  have ht := midSession_round fb frame hm hl
  have hpack : issueCommand 0b001#3 (worldAt (packSession [] false none [.ok]) .silent)
      = some (.ok, worldAt (packSession fb true none [.ok, .ok]) .silent) := by
    exact issueCommand_of rfl rfl rfl (awaitResult_ends hp (show 1 < 2 by decide)) rfl
  have hsend : issueCommand 0b011#3 (worldAt (packSession fb true none [.ok, .ok]) .silent)
      = some (.ok, worldAt (sentSession fb frame) .silent) := by
    have h1 : round (worldAt { packSession fb true none [.ok, .ok] with port := some (.cmd 0b011#3) } .silent)
        = some (worldAt (midSession fb .txCmd []) .silent) := by rfl
    have h2 : round (worldAt (midSession fb .txCmd []) .silent)
        = some (worldAt (midSession fb .txData [0x72#8]) .silent) := by rfl
    have h3 : round (worldAt (midSession fb .txAck ([0x72#8] ++ frame)) .silent)
        = some (worldAt (sentSession fb frame) .silent) := by rfl
    refine issueCommand_of (m := { packSession fb true none [.ok, .ok] with port := some (.cmd 0b011#3) }) rfl rfl rfl
      ?_ rfl
    have h : ¬ 2 < 2 := by decide
    exact (awaitResult_goes_on h1 h).trans ((awaitResult_goes_on h2 h).trans
      ((awaitResult_goes_on ht h).trans (awaitResult_ends h3 (show 2 < 3 by decide))))
  exact ⟨fb, frame, fun rest => runBody_send_of (w := worldAt openedSession .silent) rest hpack hsend⟩

/-- P1's shape, with the device's bytes already in RXQ: a session that sends the black raster
(ASuccessfulSessionSendsItsFrames, ASessionClosesExactlyOnce). -/
theorem witness_session_sends :
    ∃ w', session [0x72#8, 0x72#8, 0x73#8] [.send (rasterWith [])] (worldAt State.reset .silent) = some (.ok, w') := by
  obtain ⟨fb, frame, hb⟩ := openedSession_sends
  have hc : ∃ w', issueCommand 0b100#3 (worldAt (sentSession fb frame) .silent) = some (.ok, w') := ⟨_, rfl⟩
  obtain ⟨w', hc⟩ := hc
  exact ⟨w', session_of openedSession_open (hb []) hc⟩

/-- AnInvalidRasterIsSurfacedFirst: a valid raster, sent, and then one of 983 rows. -/
theorem witness_session_invalid_second :
    (∀ b ∈ [BodyOp.send (rasterWith [])], (bodyRaster b).valid = true) ∧ (bodyRaster (.send ⟨983, 1304, 0, []⟩)).valid = false
    ∧ ∃ w', session [0x72#8, 0x72#8, 0x73#8] ([.send (rasterWith [])] ++ .send ⟨983, 1304, 0, []⟩ :: [])
        (worldAt State.reset .silent) = some (.invalidFrame, w') := by
  refine ⟨by decide, by decide, ?_⟩
  obtain ⟨fb, frame, hb⟩ := openedSession_sends
  have hi : ∃ w₂, runBody [.send ⟨983, 1304, 0, []⟩] (worldAt (sentSession fb frame) .silent) = some (.invalidFrame, w₂)
      ∧ ∃ w', issueCommand 0b100#3 w₂ = some (.ok, w') := ⟨_, rfl, _, rfl⟩
  obtain ⟨w₂, hi, w', hc⟩ := hi
  exact ⟨w', session_of openedSession_open ((hb _).trans hi) hc⟩

/-- P5: a session whose OPEN fails. -/
theorem witness_session_fails :
    ∃ w', session [0x73#8] [] (worldAt State.reset .silent) = some (.linkInitError, w') ∧ w'.machine.tcloses = 1 :=
  ⟨_, rfl, rfl⟩

/-- AConformingSessionSucceeds: a body of one valid raster. -/
theorem witness_conforming :
    (∀ o ∈ [BodyOp.send (rasterWith [])], (bodyRaster o).valid = true)
    ∧ (worldAt State.reset .started).device.taken = (worldAt State.reset .started).machine.txh.length := by
  refine ⟨fun o ho => ?_, rfl⟩
  rw [List.mem_singleton] at ho
  rw [ho]
  decide

/-- P4: an invalid raster in mid-scope is surfaced, and the sleep byte goes out (AnInvalidRasterIsSurfacedFirst with no
operation before it). -/
theorem witness_session_invalid :
    (bodyRaster (.send ⟨983, 1304, 0, []⟩)).valid = false
    ∧ ∃ w', session [] [.send ⟨983, 1304, 0, []⟩] (worldAt State.reset .started) = some (.invalidFrame, w')
      ∧ w'.machine.txh = [0x73#8] := ⟨by decide, _, rfl, rfl⟩

/-- The same with a device that is silent: OPEN fails, and nothing goes out. -/
theorem witness_session_invalid_open_fails :
    ∃ w', session [0x00#8] [.send ⟨983, 1304, 0, []⟩] (worldAt State.reset .silent) = some (.linkInitError, w')
      ∧ w'.machine.txh = [] := ⟨_, rfl, rfl⟩

end Sys2Proof.Machine
end

