-- ==== Sys2Proof/Proofs/Memory.lean ====
section
/-! SUPPORT. The layout of the frame buffer: what a read answers after PACK, segment by segment (20_memory.md R45). -/

namespace Sys2Proof.Machine

/-- Every quadrant starts at a byte boundary, so raster column and quadrant column agree modulo 8 (20_memory.md R45). -/
theorem sub_quadCol_mod_eight {q : Quadrant} {c : Nat} (h : quadCol q ≤ c) : (c - quadCol q) % 8 = c % 8 := by
  have hq : quadCol q % 8 = 0 := by cases q <;> decide
  omega

/-- After PACK's writes, FB reads as the packed frame wherever the frame has a byte. -/
theorem readByte_writeSegments {cell : Nat → Nat → Byte} {k : Nat} {b : Byte} (m : Memory)
    (h : (packFrame cell)[k]? = some b) : readByte (writeSegments cell cfg.segOrder 0 m) k = some b := by
  rw [writeSegments_eq, readByte_append, readByte_cellsFrom, if_pos (Nat.zero_le k), Nat.sub_zero, h, Option.some_or]

/-- What PACK of a valid raster leaves in FB. -/
theorem exec_pack_fb {s t : State} (hv : s.ras.valid = true) (h : exec .pack s = .next t) :
    t.fb = writeSegments s.ras.cell8 cfg.segOrder 0 s.fb := by
  obtain ⟨_, ⟨_, ht⟩ | ⟨hinvalid, _⟩⟩ := exec_pack_cases h
  · rw [ht, complete_fb]
  · rw [hv] at hinvalid
    cases hinvalid

/-- Settles O18: a read after PACK is a byte of the packed frame, and the byte at index n of a segment is the packed byte
of its row and column group. -/
theorem frameBytesFollowTheLayout : Obligations.FrameBytesFollowTheLayout := by
  refine ⟨fun _ _ => sub_quadCol_mod_eight, fun s t hv hexec q p n hn => ?_⟩
  refine ⟨packByte s.ras.cell8 p (quadRow q + n / bytesPerRow q) (quadCol q + 8 * (n % bytesPerRow q)), ?_, ?_⟩
  · rw [exec_pack_fb hv hexec]
    exact readByte_writeSegments s.fb (packFrame_getElem? s.ras.cell8 q p n hn)
  · exact fun k hk => packByte_getLsbD s.ras.cell8 p _ _ k hk

end Sys2Proof.Machine
end

section
/-! SUPPORT. The frame encoder: the quantizer and its plane bits, and the frame PACK leaves, cell by cell
(40_frame_encoder.md R92 to R98). -/

namespace Sys2Proof.Machine

/-! ### PACK (R97, R98) -/

/-- The place of a cell in one plane (20_memory.md R46). -/
def Place.offset (a : Place) (p : Plane) : Nat :=
  match p with
  | .msb => a.msbOffset
  | .lsb => a.lsbOffset

/-- A cell's byte stands in the segment of its quadrant, at the row and the column group it has there. -/
theorem locate_offset (r c : Nat) (p : Plane) :
    (locate r c).offset p = segBase (quadrantOf r c) p
      + ((r - quadRow (quadrantOf r c)) * bytesPerRow (quadrantOf r c) + (c - quadCol (quadrantOf r c)) / 8) := by
  cases p <;> rfl

/-- A cell of the panel lies in the rows and in the columns of its quadrant (20_memory.md R41). -/
theorem quadrantOf_bounds {r c : Nat} (hr : r < 984) (hc : c < 1304) :
    (quadRow (quadrantOf r c) ≤ r ∧ r < quadRow (quadrantOf r c) + 492)
    ∧ quadCol (quadrantOf r c) ≤ c ∧ c < quadCol (quadrantOf r c) + 8 * bytesPerRow (quadrantOf r c) := by
  have hrows : cfg.rowSplit = 492 := rfl
  have hcols : cfg.colSplit = 648 := rfl
  have hleft : cfg.leftW = 648 := rfl
  have hright : cfg.rightW = 656 := rfl
  by_cases h1 : r < cfg.rowSplit <;> by_cases h2 : c < cfg.colSplit <;>
    simp only [quadrantOf, h1, h2, if_true, if_false, quadRow, quadCol, bytesPerRow, quadWidth] <;> omega

/-- The byte of the packed frame at a cell's place holds the cell's plane bit at the place's bit. -/
theorem packFrame_at_locate (cell : Nat → Nat → Byte) (p : Plane) {r c : Nat} (hr : r < 984) (hc : c < 1304) :
    ∃ b, (packFrame cell)[(locate r c).offset p]? = some b
      ∧ b.getLsbD (locate r c).bit = planeBit p (cell r c) := by
  have hbit : (locate r c).bit = 7 - (c - quadCol (quadrantOf r c)) % 8 := rfl
  rw [locate_offset, hbit, Nat.mul_comm]
  obtain ⟨⟨hrow, hrow'⟩, hcol, hcol'⟩ := quadrantOf_bounds hr hc
  generalize quadrantOf r c = q at hrow hrow' hcol hcol' ⊢
  have hi : r - quadRow q < 492 := by omega
  have hj : (c - quadCol q) / 8 < bytesPerRow q := by omega
  refine ⟨_, packFrame_getElem? cell q p _ (Nat.mul_add_lt_mul_of_lt_of_lt hi hj), ?_⟩
  rw [packByte_getLsbD cell p _ _ _ (Nat.mod_lt _ (by decide)), Nat.mul_add_div (bytesPerRow_pos q),
    Nat.div_eq_of_lt hj, Nat.add_zero, Nat.mul_add_mod, Nat.mod_eq_of_lt hj, Nat.add_assoc, Nat.div_add_mod,
    Nat.add_sub_cancel' hrow, Nat.add_sub_cancel' hcol]

/-- After PACK's writes every byte of FB holds a value. -/
theorem readByte_writeSegments_isSome (cell : Nat → Nat → Byte) (m : Memory) {k : Nat} (hk : k < cfg.frameBytes) :
    (readByte (writeSegments cell cfg.segOrder 0 m) k).isSome = true := by
  rw [← packFrame_length cell] at hk
  rw [readByte_writeSegments m (List.getElem?_eq_getElem hk), Option.isSome_some]

/-- PACK's writes change no byte outside FB. -/
theorem readByte_writeSegments_outside (cell : Nat → Nat → Byte) {m : Memory} (hm : Memory.wf m) {k : Nat}
    (hk : cfg.frameBytes ≤ k) : readByte (writeSegments cell cfg.segOrder 0 m) k = readByte m k := by
  have hnone : (packFrame cell)[k]? = none := List.getElem?_eq_none ((packFrame_length cell).symm ▸ hk)
  rw [writeSegments_eq, readByte_append, readByte_cellsFrom, if_pos (Nat.zero_le k), Nat.sub_zero, hnone,
    Option.none_or, readByte_dropWhile hm, if_pos hk]

/-- Settles O17: the new buffer is the old one after PACK's eight writes, which is the packed frame and, behind it, what
stood there before; the byte at a cell's place is a packed byte of the frame. -/
theorem packPutsEveryCellInItsPlace : Obligations.PackPutsEveryCellInItsPlace := by
  refine ⟨rfl, fun s hidle hinvalid => exec_pack_invalid hidle hinvalid, fun s hidle hvalid hwf => ?_⟩
  refine ⟨writeSegments s.ras.cell8 cfg.segOrder 0 s.fb, exec_pack_valid hidle hvalid, writeSegments_wf _ _ _ hwf,
    fun k hk => readByte_writeSegments_isSome _ _ hk, fun k hk => readByte_writeSegments_outside _ hwf hk,
    fun r c hr hc => ?_⟩
  obtain ⟨mo, hmo, hmsb⟩ := packFrame_at_locate s.ras.cell8 .msb hr hc
  obtain ⟨lo, hlo, hlsb⟩ := packFrame_at_locate s.ras.cell8 .lsb hr hc
  exact ⟨mo, lo, readByte_writeSegments s.fb hmo, readByte_writeSegments s.fb hlo, hmsb, hlsb⟩

/-- Settles O19: validation is R98's check, and PACK of a raster that fails it only completes. -/
theorem invalidRasterChangesNothing : Obligations.InvalidRasterChangesNothing :=
  ⟨Raster.valid_iff, fun _ hidle hinvalid => exec_pack_invalid hidle hinvalid⟩

/-! ### The quantizer and the plane bits (R92, R94) -/

theorem quantize_of_lt {i : Byte} (h : i.toNat < 32) : quantize i = .black := if_pos h

theorem quantize_of_gt {i : Byte} (h : 222 < i.toNat) : quantize i = .white := by
  have hblack : ¬ i.toNat < 32 := by omega
  exact (if_neg hblack).trans (if_pos h)

theorem quantize_of_between {i : Byte} (h : 32 ≤ i.toNat) (h' : i.toNat ≤ 222) : quantize i = .red :=
  (if_neg (Nat.not_lt.2 h)).trans (if_neg (Nat.not_lt.2 h'))

/-- Settles O10, one range at a time. -/
theorem quantizeByThreeRanges : Obligations.QuantizeByThreeRanges :=
  fun _ => ⟨quantize_of_lt, quantize_of_between, quantize_of_gt⟩

/-- The code of a level is its two plane bits, the MSB plane's first. -/
theorem levelCode_eq_levelBits (v : Level) :
    levelCode v = BitVec.ofBool (levelBit .msb v) ++ BitVec.ofBool (levelBit .lsb v) := by
  cases v <;> rfl

/-- Black has the MSB bit 0, white and red have it 1. -/
theorem planeBit_msb (i : Byte) : planeBit .msb i = decide (32 ≤ i.toNat) := by
  rcases Nat.lt_or_ge i.toNat 32 with h | h
  · rw [planeBit, quantize_of_lt h, decide_eq_false (Nat.not_le.2 h)]
    rfl
  · rw [decide_eq_true h]
    rcases Nat.lt_or_ge 222 i.toNat with h' | h'
    · rw [planeBit, quantize_of_gt h']
      rfl
    · rw [planeBit, quantize_of_between h h']
      rfl

/-- Red alone has the LSB bit 1. -/
theorem planeBit_lsb (i : Byte) : planeBit .lsb i = decide (32 ≤ i.toNat ∧ i.toNat ≤ 222) := by
  rcases Nat.lt_or_ge i.toNat 32 with h | h
  · rw [planeBit, quantize_of_lt h, decide_eq_false (by omega)]
    rfl
  · rcases Nat.lt_or_ge 222 i.toNat with h' | h'
    · rw [planeBit, quantize_of_gt h', decide_eq_false (by omega)]
      rfl
    · rw [planeBit, quantize_of_between h h', decide_eq_true ⟨h, h'⟩]
      rfl

/-- Settles O11: the plane bits in closed form, and the law of R94 read off them. -/
theorem planeBitsOfAnIntensity : Obligations.PlaneBitsOfAnIntensity := by
  refine fun i => ⟨levelCode_eq_levelBits (quantize i), planeBit_msb i, planeBit_lsb i, fun hlsb => ?_, rfl, rfl, rfl⟩
  rw [planeBit_lsb, decide_eq_true_iff] at hlsb
  rw [planeBit_msb, decide_eq_true hlsb.1]

end Sys2Proof.Machine
end

section
/-! SUPPORT. The link engine: which command is accepted at PHASE Idle and what it leaves (41_link_protocol.md R117,
R118, R121, R126, R127), and what the three writing micro-steps send (R122, R123, R128). -/

namespace Sys2Proof.Machine

/-! ### Acceptance of commands (R117, R118, R121, R126, R127) -/

/-- OPEN in Closed: LINK_FAULT is cleared and the read is next (R118). -/
theorem exec_openLink_closed {s : State} (hidle : s.phase = .idle) (hclosed : s.linkState = .closed) :
    exec .openLink s = .next { s with port := none, linkFault := .none, phase := .openWait } := by
  conv_lhs => rw [exec, execOpenLink, atPhase_of _ hidle, hclosed]
  rfl

theorem exec_openLink_refused {s : State} (hidle : s.phase = .idle) (hlive : s.linkState ≠ .closed) :
    exec .openLink s = .next (onlyResult .commandRefused s) := by
  rw [exec, execOpenLink, atPhase_of _ hidle]
  cases hl : s.linkState with
  | closed => exact absurd hl hlive
  | awake => rfl
  | transmitting => rfl

/-- TRANSMIT in Awake with a frame: the link is Transmitting and the begin byte is next (R121). -/
theorem exec_transmit_accepted {s : State} (hidle : s.phase = .idle) (hawake : s.linkState = .awake)
    (hframe : s.fbValid = true) :
    exec .transmit s = .next { s with port := none, linkState := .transmitting, phase := .txCmd } := by
  rw [exec, execTransmit, atPhase_of _ hidle, hawake]
  exact if_pos hframe

theorem exec_transmit_refused {s : State} (hidle : s.phase = .idle)
    (hrefused : s.linkState ≠ .awake ∨ s.fbValid = false) :
    exec .transmit s = .next (onlyResult .commandRefused s) := by
  rw [exec, execTransmit, atPhase_of _ hidle]
  cases hl : s.linkState with
  | closed => rfl
  | awake => exact if_neg (Bool.eq_false_iff.1 (hrefused.resolve_left (not_not_intro hl)))
  | transmitting => rfl

/-- CLOSE in Awake: the sleep byte is next, and LINK_STATE stays (R126). -/
theorem exec_closeLink_awake {s : State} (hidle : s.phase = .idle) (hawake : s.linkState = .awake) :
    exec .closeLink s = .next { s with port := none, phase := .clCmd } := by
  conv_lhs => rw [exec, execCloseLink, atPhase_of _ hidle, hawake]
  rfl

/-- CLOSE after a failure has nothing left to close (R127). -/
theorem exec_closeLink_failed {s : State} (hidle : s.phase = .idle) (hclosed : s.linkState = .closed)
    (hfault : s.linkFault ≠ .none) : exec .closeLink s = .next (onlyResult .ok s) := by
  rw [exec, execCloseLink, atPhase_of _ hidle, hclosed]
  exact if_neg hfault

/-- CLOSE is refused where there is no live link and no failure behind it (R117). -/
theorem exec_closeLink_refused {s : State} (hidle : s.phase = .idle) (hlive : s.linkState ≠ .awake)
    (hclean : ¬ (s.linkState = .closed ∧ s.linkFault ≠ .none)) :
    exec .closeLink s = .next (onlyResult .commandRefused s) := by
  rw [exec, execCloseLink, atPhase_of _ hidle]
  cases hl : s.linkState with
  | closed => exact if_pos (not_not.1 fun hfault => hclean ⟨hl, hfault⟩)
  | awake => exact absurd hl hlive
  | transmitting => rfl

/-- PACK is accepted in every LINK_STATE: its result is Ok or InvalidFrame. -/
theorem exec_pack_accepted {s : State} (hidle : s.phase = .idle) :
    ∃ t r, exec .pack s = .next t ∧ t.results = s.results ++ [r] ∧ r ≠ .commandRefused := by
  cases hv : s.ras.valid with
  | true => exact ⟨_, .ok, exec_pack_valid hidle hv, complete_results _ _, by decide⟩
  | false => exact ⟨_, .invalidFrame, exec_pack_invalid hidle hv, complete_results _ _, by decide⟩

/-- Every command code belongs to PHASE Idle. -/
theorem phaseOfInstr_decodeCmd : ∀ op : BitVec 3, phaseOfInstr (decodeCmd op) = some .idle := by decide

/-- Inside a command the instruction fetched is the token of the present PHASE (10_state.md R27). -/
theorem phaseOfInstr_fetch {s : State} {i : Instr} (hbusy : s.phase ≠ .idle) (h : fetch s = .run i) :
    phaseOfInstr i = some s.phase := by
  unfold fetch at h
  split at h
  case h_1 hp => exact absurd hp hbusy
  case h_4 hp =>
    split at h
    · cases h
      exact congrArg some hp.symm
    · cases h
  all_goals
    rename_i hp
    cases h
    exact congrArg some hp.symm

/-- Inside a command no command is looked at (R117). -/
theorem fetch_ne_decodeCmd {s : State} (hbusy : s.phase ≠ .idle) (op : BitVec 3) :
    fetch s ≠ .run (decodeCmd op) := fun h =>
  hbusy (Option.some.inj ((phaseOfInstr_fetch hbusy h).symm.trans (phaseOfInstr_decodeCmd op)))

theorem phaseAgrees_idle {s : State} (hagree : phaseAgrees s) (hidle : s.phase = .idle) :
    s.linkState = .closed ∨ s.linkState = .awake := by
  simpa only [phaseAgrees, hidle] using hagree

/-- Settles O28: the table of R117, one command after the other. -/
theorem commandsAreAcceptedByTheTable : Obligations.CommandsAreAcceptedByTheTable := by
  refine fun s => ⟨fun hidle => ⟨exec_pack_accepted hidle, ?openLink, ?transmit, ?closeLink,
    atPhase_of _ hidle, atPhase_of _ hidle, atPhase_of _ hidle, atPhase_of _ hidle⟩, fetch_ne_decodeCmd, ?_⟩
  case openLink =>
    split
    · exact ⟨_, exec_openLink_closed hidle ‹_›, rfl⟩
    · exact exec_openLink_refused hidle ‹_›
  case transmit =>
    split
    case isTrue h => exact ⟨_, exec_transmit_accepted hidle h.1 h.2, rfl⟩
    case isFalse h => exact exec_transmit_refused hidle ((not_and_or.1 h).imp_right Bool.eq_false_iff.2)
  case closeLink =>
    split
    · exact ⟨_, exec_closeLink_awake hidle ‹_›, rfl⟩
    · split
      case isTrue h => exact exec_closeLink_failed hidle h.1 h.2
      case isFalse => exact exec_closeLink_refused hidle ‹_› ‹_›
  · intro hagree hidle htransmitting
    rcases phaseAgrees_idle hagree hidle with h | h <;> cases h.symm.trans htransmitting

/-- Settles O24: acceptance of OPEN at the code 010. -/
theorem openIsAcceptedInClosed : Obligations.OpenIsAcceptedInClosed :=
  ⟨rfl, fun _ => exec_openLink_closed⟩

/-- Settles O25: acceptance and refusal of TRANSMIT at the code 011. -/
theorem transmitIsAcceptedAwakeWithAFrame : Obligations.TransmitIsAcceptedAwakeWithAFrame :=
  ⟨rfl, fun _ => exec_transmit_accepted, fun _ => exec_transmit_refused⟩

/-- Settles O27: with no fault, the refusal's second condition cannot hold. -/
theorem closeAfterAFailureDoesNothing : Obligations.CloseAfterAFailureDoesNothing :=
  ⟨fun _ => exec_closeLink_failed, fun _ hidle hclosed hclean =>
    exec_closeLink_refused hidle (by simp [hclosed]) fun h => h.2 hclean⟩

/-! ### LINK_STATE while CLOSE goes on (R126) -/

/-- A write that does not end the command leaves LINK_STATE alone. -/
theorem writeStep_linkState {s t : State} {bytes : List Byte} {p : Phase} (h : writeStep bytes p s = .next t)
    (hgoes : t.phase ≠ .idle) : t.linkState = s.linkState := by
  obtain ⟨_, _, rfl⟩ | ⟨info, u, rfl, _⟩ := writeStep_cases h
  · rfl
  · exact absurd (raiseError_phase _ _) hgoes

/-- SACK ends the command unless it waits, and a wait changes nothing. -/
theorem exec_sack_waits {s t : State} (h : exec .sack s = .next t) (hgoes : t.phase ≠ .idle) : t = s := by
  obtain ⟨_, hread⟩ := atPhase_next h
  obtain ⟨b, rest, _, _, _, rfl⟩ | ⟨info, u, rfl, _⟩ | ⟨_, _, _, ht⟩ := readStep_cases hread
  · refine absurd ?_ hgoes
    split
    · exact finishOk_phase _
    · exact raiseError_phase _ _
  · exact absurd (raiseError_phase _ _) hgoes
  · exact ht

/-- Settles O26: of CLOSE's two micro-steps the write leaves LINK_STATE alone and the read can only wait. -/
theorem closeIsAcceptedAwake : Obligations.CloseIsAcceptedAwake := by
  refine ⟨rfl, fun _ => exec_closeLink_awake, fun s t h hgoes => ?_⟩
  rcases h with hsleep | hsack
  · exact writeStep_linkState (atPhase_next hsleep).2 hgoes
  · rw [exec_sack_waits hsack hgoes]

/-! ### The writing micro-steps (R122, R123, R128) -/

/-- Raising an error leaves the state written out from 60_exceptions.md R170. -/
theorem raiseError_eq_afterFailure (e : LinkError) (s : State) :
    raiseError e s = afterFailure (linkErrorResult e) (linkErrorFault e) s := rfl

/-- Every outcome R113 gives a write: all bytes go out; the environment's failure cuts it short, or finds the transport
closed; or the transport is closed and nothing goes out. -/
theorem writeStep_outcomes (bytes : List Byte) (p : Phase) (s : State) :
    (s.failNext = none → s.tOpen = true →
      writeStep bytes p s = .next { s with txh := s.txh ++ bytes, phase := p })
    ∧ (∀ f, s.failNext = some f → s.tOpen = true →
      writeStep bytes p s = .next (afterFailure (.transportError f.info) .transportError
        { s with failNext := none, txh := s.txh ++ bytes.take f.sent }))
    ∧ (∀ f, s.failNext = some f → s.tOpen = false →
      writeStep bytes p s = .next (afterFailure (.transportError f.info) .transportError { s with failNext := none }))
    ∧ (s.failNext = none → s.tOpen = false → ∃ info,
      writeStep bytes p s = .next (afterFailure (.transportError info) .transportError
        { s with freeCtr := s.freeCtr + 1 })) := by
  refine ⟨fun hf ho => ?_, fun f hf ho => ?_, fun f hf ho => ?_, fun hf ho => ⟨Config.freeInfo s.freeCtr, ?_⟩⟩
  · rw [writeStep, linkWrite_ok bytes hf ho]
  · rw [writeStep, linkWrite_fail bytes hf, if_pos ho]
    exact congrArg _ (raiseError_eq_afterFailure _ _)
  · rw [writeStep, linkWrite_fail bytes hf, if_neg (Bool.eq_false_iff.1 ho)]
    exact congrArg _ (raiseError_eq_afterFailure _ _)
  · rw [writeStep, linkWrite_closed bytes hf ho]
    exact congrArg _ (raiseError_eq_afterFailure _ _)

/-- Settles O31: at TxCmd the micro-step is the write of the begin byte. -/
theorem transmitWritesTheBeginByte : Obligations.TransmitWritesTheBeginByte := by
  intro s hphase
  have hexec : exec .beginTx s = writeStep [cfg.byteReady] .txData s := atPhase_of _ hphase
  rw [hexec]
  exact writeStep_outcomes _ _ s

/-- Settles O35: at ClCmd the micro-step is the write of the sleep byte. -/
theorem closeWritesTheSleepByte : Obligations.CloseWritesTheSleepByte := by
  intro s hphase
  have hexec : exec .sleep s = writeStep [cfg.byteSleep] .clAck s := atPhase_of _ hphase
  rw [hexec]
  exact writeStep_outcomes _ _ s

/-! ### The payload (R123) -/

/-- A memory whose first n entries were gathered from offset k begins with those bytes at rising offsets. -/
theorem eq_cellsFrom_append_of_consecutive {k n : Nat} {m : Memory} {bytes : List Byte}
    (h : consecutive k n m = some bytes) : ∃ rest, m = cellsFrom k bytes ++ rest := by
  induction n generalizing k m bytes with
  | zero =>
    cases h
    exact ⟨m, rfl⟩
  | succ n ih =>
    cases m with
    | nil => cases h
    | cons c m =>
      rw [consecutive] at h
      split at h
      · rename_i hk
        split at h
        · rename_i tail htail
          obtain ⟨rest, hm⟩ := ih htail
          cases h
          exact ⟨rest, by rw [hm, ← hk]; rfl⟩
        · cases h
      · cases h

/-- What a read of a window answers, byte by byte. -/
theorem readByte_of_memRead {m : Memory} (hm : Memory.wf m) {k n : Nat} {bytes : List Byte}
    (h : memRead m k n = some bytes) {j : Nat} (hj : j < n) : readByte m (k + j) = bytes[j]? := by
  have hlt : j < bytes.length := by rwa [memRead_length h]
  have hdrop := readByte_dropWhile hm k (k + j)
  obtain ⟨rest, hrest⟩ := eq_cellsFrom_append_of_consecutive h
  rw [if_pos (Nat.le_add_right k j), hrest, readByte_append, readByte_cellsFrom, if_pos (Nat.le_add_right k j),
    Nat.add_sub_cancel_left, List.getElem?_eq_getElem hlt, Option.some_or] at hdrop
  rw [← hdrop, List.getElem?_eq_getElem hlt]

/-- Settles O32: the payload fetched is FB's bytes in their order, and at TxData the micro-step is its write. -/
theorem transmitWritesTheFrameBuffer : Obligations.TransmitWritesTheFrameBuffer := by
  refine ⟨fun s frame hphase hwf hread => ⟨fetch_txData hphase hread, memRead_length hread, fun k hk => ?_⟩,
    fun s frame hphase hlength => ?_⟩
  · have hbyte := readByte_of_memRead hwf hread hk
    rwa [Nat.zero_add] at hbyte
  · rw [exec_frame_at hlength hphase]
    exact writeStep_outcomes _ _ s

end Sys2Proof.Machine
end

section
/-! SUPPORT. Errors: what an instruction delivers, and what has happened by the time a link error is raised
(60_exceptions.md R170). -/

namespace Sys2Proof.Machine

/-! ### What an instruction delivers (R170) -/

/-- From `s` to `u`, the state in which `i` raises an error: the primitive that failed has changed only the transport's
side, and has sent at most first bytes of what `i` writes, at the PHASE of that write. -/
structure FailedPrimitive (i : Instr) (s u : State) : Prop where
  ras     : u.ras = s.ras
  fb      : u.fb = s.fb
  fbValid : u.fbValid = s.fbValid
  tcloses : u.tcloses = s.tcloses
  results : u.results = s.results
  txh     : u.txh = s.txh ∨ ∃ p bytes k, encode i = .tx p bytes ∧ s.phase = p ∧ u.txh = s.txh ++ bytes.take k

/-- A token that is written delivers nothing, or raises an error once its write has failed. -/
theorem writesToken_outcomes {i : Instr} {p q : Phase} {bytes : List Byte} {s t : State}
    (h : writesToken i p q bytes s t) :
    t.results = s.results ∨ ∃ e u, t = raiseError e u ∧ FailedPrimitive i s u := by
  obtain ⟨hencode, hphase, ⟨_, _, rfl⟩ | ⟨info, u, ht, ⟨k, rfl⟩ | rfl⟩⟩ := h
  · exact .inl rfl
  · exact .inr ⟨_, _, ht, rfl, rfl, rfl, rfl, rfl, .inr ⟨p, bytes, k, hencode, hphase, rfl⟩⟩
  · exact .inr ⟨_, _, ht, rfl, rfl, rfl, rfl, rfl, .inl rfl⟩

/-- A token that is read delivers nothing or Ok, or raises an error, and writes nothing to the link. -/
theorem readsToken_outcomes {i : Instr} {p : Phase} {b : Byte} {s t : State} (h : readsToken i p b s t) :
    t.results = s.results ∨ t.results = s.results ++ [.ok]
    ∨ ∃ e u, t = raiseError e u ∧ FailedPrimitive i s u := by
  obtain ⟨_, _, ⟨rest, _, _, _, ht⟩ | ⟨e, u, ht, hu⟩ | ⟨_, _, _, rfl⟩⟩ := h
  · refine .inr (.inl ?_)
    rw [ht]
    split <;> rfl
  · refine .inr (.inr ⟨e, u, ht, ?_⟩)
    obtain ⟨_, _, _, rfl⟩ | rfl | rfl := hu <;> exact ⟨rfl, rfl, rfl, rfl, rfl, .inl rfl⟩
  · exact .inl rfl

/-- What an instruction can deliver: nothing; Ok; an InvalidFrame or a refusal with no other effect; or a link error,
by the failure sequence. -/
theorem exec_outcomes {i : Instr} {s t : State} (h : exec i s = .next t) :
    t.results = s.results
    ∨ t.results = s.results ++ [.ok]
    ∨ (∃ r, (r = .invalidFrame ∨ r = .commandRefused) ∧ t = onlyResult r s)
    ∨ ∃ e u, t = raiseError e u ∧ FailedPrimitive i s u := by
  obtain ⟨_, _, rfl⟩ | ⟨_, _, hends⟩ | ⟨_, _, _, rfl⟩ | ⟨_, _, _, rfl⟩ | ⟨_, _, _, _, rfl⟩
    | ⟨_, _, _, rfl⟩ | ⟨p, q, bytes, _, hwrite⟩ | ⟨p, b, _, hread⟩ := exec_cases h
  case inr.inl =>
    obtain ⟨_, _, _, rfl⟩ | ⟨_, _, rfl⟩ | ⟨_, rfl⟩ := hends
    · exact .inr (.inl rfl)
    · exact .inr (.inr (.inl ⟨_, .inl rfl, rfl⟩))
    · exact .inr (.inr (.inl ⟨_, .inr rfl, rfl⟩))
  case inr.inr.inl => exact .inr (.inl rfl)
  case inr.inr.inr.inr.inr.inr.inl => exact (writesToken_outcomes hwrite).imp_right fun h => .inr (.inr h)
  case inr.inr.inr.inr.inr.inr.inr =>
    exact (readsToken_outcomes hread).imp_right fun h => h.imp_right .inr
  all_goals exact .inl rfl

/-! ### The failure sequence (R170) -/

theorem linkErrorResult_injective : Function.Injective linkErrorResult := by
  intro e e' h
  cases e <;> cases e' <;> cases h <;> rfl

theorem linkErrorResult_ne_ok (e : LinkError) : linkErrorResult e ≠ .ok := by
  cases e <;> simp [linkErrorResult]

/-- InvalidFrame and CommandRefused are no link errors. -/
theorem linkErrorResult_ne_of_refusal {r : Result} (h : r = .invalidFrame ∨ r = .commandRefused) (e : LinkError) :
    linkErrorResult e ≠ r := by
  rcases h with rfl | rfl <;> cases e <;> simp [linkErrorResult]

/-- The result an instruction delivers says how it ended. -/
theorem exec_delivers {i : Instr} {s t : State} {r : Result} (h : exec i s = .next t)
    (hdelivers : t.results = s.results ++ [r]) :
    r = .ok
    ∨ ((r = .invalidFrame ∨ r = .commandRefused) ∧ t = onlyResult r s)
    ∨ ∃ e u, r = linkErrorResult e ∧ t = raiseError e u ∧ FailedPrimitive i s u := by
  have same : ∀ {r'}, t.results = s.results ++ [r'] → r = r' := fun h' =>
    List.singleton_inj.1 (List.append_cancel_left (hdelivers.symm.trans h'))
  obtain hnone | hok | ⟨r', hr', ht⟩ | ⟨e, u, ht, hu⟩ := exec_outcomes h
  · exact absurd (hdelivers.symm.trans hnone) (by simp)
  · exact .inl (same hok)
  · obtain rfl : r = r' := same (congrArg State.results ht)
    exact .inr (.inl ⟨hr', ht⟩)
  · exact .inr (.inr ⟨e, u, same (by rw [ht, raiseError_results, hu.results]), ht, hu⟩)

/-- Settles O37: a link error is delivered by the failure sequence alone, InvalidFrame and a refusal never by it. -/
theorem errorsRunTheFailureSequence : Obligations.ErrorsRunTheFailureSequence := by
  refine fun i s t h => ⟨fun e hdelivers => ?_, fun r hr hdelivers => ?_⟩
  · obtain hok | ⟨hr, _⟩ | ⟨e', u, he, rfl, hu⟩ := exec_delivers h hdelivers
    · exact absurd hok (linkErrorResult_ne_ok e)
    · exact absurd rfl (linkErrorResult_ne_of_refusal hr e)
    · obtain rfl := linkErrorResult_injective he
      exact ⟨rfl, congrArg (· + 1) hu.tcloses, rfl, rfl, rfl, hu.fb, hu.fbValid, hu.ras, hu.txh⟩
  · obtain rfl | ⟨_, ht⟩ | ⟨e, _, he, _⟩ := exec_delivers h hdelivers
    · simp at hr
    · exact ht
    · exact absurd he.symm (linkErrorResult_ne_of_refusal hr e)

end Sys2Proof.Machine
end

section
/-! SUPPORT. What ends a wait: a close of the transport out of band (70_reset_and_hazards.md R203). -/

namespace Sys2Proof.Machine

/-- A read micro-step on a closed transport that no failure is due on takes its error's branch (R112). -/
theorem readStep_closed {s : State} (f : Byte → State → State) (g : Info → State → State)
    (hf : s.failNext = none) (ho : s.tOpen = false) :
    readStep s f g = .next (g (Config.freeInfo s.freeCtr) { s with freeCtr := s.freeCtr + 1 }) := by
  rw [readStep, linkRead_closed hf ho]

/-- At each of the three reads a closed transport raises an error, OPEN's without the info (R119, R124, R129). -/
theorem blockStep_read_closed {s : State} (hread : s.phase = .openWait ∨ s.phase = .txAck ∨ s.phase = .clAck)
    (hf : s.failNext = none) (ho : s.tOpen = false) :
    blockStep s = .next (raiseError (if s.phase = .openWait then .linkInit else .transport (Config.freeInfo s.freeCtr))
      { s with freeCtr := s.freeCtr + 1 }) := by
  have closed : ∀ {p f g}, s.phase = p →
      atPhase p s (readStep s f g) = .next (g (Config.freeInfo s.freeCtr) { s with freeCtr := s.freeCtr + 1 }) :=
    fun hp => (atPhase_of _ hp).trans (readStep_closed _ _ hf ho)
  obtain hp | hp | hp := hread <;> simp only [blockStep, fetch, hp, reduceIte, reduceCtorEq]
  case inl => exact closed hp
  case inr.inl => exact closed hp
  case inr.inr => exact closed hp

theorem stepN_succ_of_step {s t : State} (n : Nat) (h : step s = .next t) : stepN (n + 1) s = stepN n t := by
  rw [stepN, h]

/-- After an out-of-band close and nothing more, the second step is the block's, on a closed transport. -/
theorem stepN_two_of_oobClose {s t : State} (hsched : s.sched = [.env .oobClose])
    (h : blockStep { s with sched := [], tOpen := false } = .next t) : stepN 2 s = .next t := by
  have hclose : step s = .next { s with sched := [], tOpen := false } := by simp only [step, hsched, envStep]
  have hblock : step { s with sched := [], tOpen := false } = .next t := (step_of_blockTurn (.inl ⟨rfl, rfl⟩)).trans h
  rw [stepN_succ_of_step 1 hclose, stepN_succ_of_step 0 hblock, stepN]

/-- Settles O39: the failure sequence closes the transport itself, so the close before it leaves no other trace. -/
theorem outOfBandCloseEndsAWait : Obligations.OutOfBandCloseEndsAWait := by
  rintro s ⟨hread, _, _, hf⟩ hsched
  exact ⟨Config.freeInfo s.freeCtr, _, _, stepN_two_of_oobClose hsched (blockStep_read_closed hread hf rfl),
    fun hp => by simp [hp, linkErrorResult, linkErrorFault], fun hp => by simp [hp, linkErrorResult, linkErrorFault]⟩

end Sys2Proof.Machine
end

section
/-! SUPPORT. The decoder and the encoder: the codes of each interface read back, with bytes of the stream behind them
(30_encoding.md R61 to R71, R76), and the codes of the status (10_state.md R24 to R27, 30_encoding.md R77). -/

namespace Sys2Proof.Machine

/-! ### Instructions (30_encoding.md R61, R63, R65, R67, R76) -/

/-- FRAME takes exactly its bytes from the stream, whatever their values (R68). -/
theorem decodeTx_payload {payload : List Byte} (h : payload.length = cfg.frameBytes) (rest : List Byte) :
    decodeTx .txData (payload ++ rest) = .ok (.frame payload, rest) := by
  rw [decodeTx, List.take_left' h, List.drop_left' h, if_pos h]

theorem decodePix_encode {i : Instr} {code : BitVec 2} (h : encode i = .pix code) : decodePix code = i := by
  cases i <;> cases h <;> rfl

theorem decodeCmd_encode {i : Instr} {op : BitVec 3} (h : encode i = .cmd op) : decodeCmd op = i := by
  cases i <;> cases h <;> rfl

theorem decodeRx_encode {i : Instr} {p : Phase} {bytes : List Byte} (h : encode i = .rx p bytes) (rest : List Byte) :
    decodeRx p (bytes ++ rest) = .ok (i, rest) := by
  cases i <;> cases h <;> rfl

theorem decodeTx_encode {i : Instr} {p : Phase} {bytes : List Byte} (hwf : i.wf = true) (h : encode i = .tx p bytes)
    (rest : List Byte) : decodeTx p (bytes ++ rest) = .ok (i, rest) := by
  cases i <;> cases h
  case frame => exact decodeTx_payload (eq_of_beq hwf) rest
  all_goals rfl

/-- Settles O7, by the interface the instruction is written on. -/
theorem decodeOfEncodeIsTheInstruction : Obligations.DecodeOfEncodeIsTheInstruction := by
  intro i rest hwf
  cases h : encode i with
  | pix code => exact ⟨[], by rw [Code.followedBy, decode, decodePix_encode h], by simp⟩
  | cmd op => exact ⟨[], by rw [Code.followedBy, decode, decodeCmd_encode h], by simp⟩
  | rx p bytes => exact ⟨rest, decodeRx_encode h rest, fun _ _ _ => rfl⟩
  | tx p bytes => exact ⟨rest, decodeTx_encode hwf h rest, fun _ _ _ => rfl⟩

/-- Settles O5: the two port decoders and the two stream decoders on written-out words. -/
theorem tableWordsDecode : Obligations.TableWordsDecode :=
  ⟨rfl, rfl, rfl, rfl, rfl, rfl, rfl, rfl, rfl, rfl, rfl, rfl, rfl⟩

/-- Nothing is decoded from a received byte but at the three reads (R67). -/
theorem decodeRx_no_token {p : Phase} (hopen : p ≠ .openWait) (hack : p ≠ .txAck) (hclose : p ≠ .clAck)
    (bytes : List Byte) : decodeRx p bytes = .error .noTokenHere := by
  cases p with
  | openWait => exact absurd rfl hopen
  | txAck => exact absurd rfl hack
  | clAck => exact absurd rfl hclose
  | idle | txCmd | txData | clCmd => rfl

/-- Settles O6: each of the three reads is the test of one byte. -/
theorem receivedByteIsOneTokenOrIllegal : Obligations.ReceivedByteIsOneTokenOrIllegal :=
  fun b rest => ⟨rfl, rfl, rfl, fun _ hopen hack hclose => decodeRx_no_token hopen hack hclose (b :: rest)⟩

/-- Settles O8: the first byte of a message fixes which token it begins, and a payload is cut by its length alone. -/
theorem messagesReadBackAsSent : Obligations.MessagesReadBackAsSent := by
  refine ⟨fun payload rest hlength => ?_, fun rest => ?_⟩
  · have hbegin : decodeTx .txCmd (encodeMessage (.frame payload) ++ rest) = .ok (.beginTx, payload ++ rest) := rfl
    simp only [decodeMessage, hbegin, decodeTx_payload hlength rest]
  · have hbegin : decodeTx .txCmd (encodeMessage .sleep ++ rest) = .error (.illegalByte cfg.byteSleep) := rfl
    have hsleep : decodeTx .clCmd (encodeMessage .sleep ++ rest) = .ok (.sleep, rest) := rfl
    simp only [decodeMessage, hbegin, hsleep]

/-! ### Status (10_state.md R24 to R27, R31) and results (30_encoding.md R77) -/

theorem linkStateOf_code (v : LinkState) : linkStateOf (linkStateCode v) = some v := by cases v <;> rfl

theorem linkFaultOf_code (v : LinkFault) : linkFaultOf (linkFaultCode v) = some v := by cases v <;> rfl

theorem phaseOf_code (v : Phase) : phaseOf (phaseCode v) = some v := by cases v <;> rfl

/-- A result reads back from its code, TransportError with the info delivered beside it. -/
theorem resultOf_code {r : Result} {info : Info} (h : ∀ i, r = .transportError i → i = info) :
    resultOf (resultCode r) info = some r := by
  cases r with
  | transportError i =>
    rw [h i rfl]
    rfl
  | ok | invalidFrame | linkInitError | frameNotAcknowledged | sleepNotAcknowledged | commandRefused => rfl

theorem resultCode_ne_seven (r : Result) : resultCode r ≠ 7#3 := by cases r <;> simp [resultCode]

theorem resultCode_linkError (e : LinkError) : resultCode (linkErrorResult e) = linkFaultCode (linkErrorFault e) := by
  cases e <;> rfl

/-- What the host reads of a code that reads back is the number of the value held, and of no other. -/
theorem eq_iff_code_toNat {α : Type} {n : Nat} {code : α → BitVec n} {of : BitVec n → Option α}
    (hback : ∀ v, of (code v) = some v) (held v : α) : held = v ↔ (code held).toNat = (code v).toNat := by
  refine ⟨fun h => by rw [h], fun h => ?_⟩
  have hcode : code held = code v := BitVec.eq_of_toNat_eq h
  rw [← Option.some_inj, ← hback held, hcode, hback]

/-- Settles O9: the tables, and that a code which reads back tells its values apart. -/
theorem statusCodesReadBack : Obligations.StatusCodesReadBack := by
  refine ⟨⟨rfl, rfl, rfl⟩, ⟨rfl, rfl, rfl, rfl, rfl⟩, ⟨rfl, rfl, rfl, rfl, rfl, rfl, rfl⟩,
    ⟨rfl, rfl, rfl, rfl, rfl, fun _ => rfl, rfl⟩, linkStateOf_code, rfl, linkFaultOf_code, rfl, rfl, rfl, phaseOf_code,
    rfl, fun _ _ => resultOf_code, fun _ => rfl, resultCode_ne_seven, resultCode_linkError, fun s => ?_⟩
  refine ⟨eq_iff_code_toNat linkStateOf_code _, eq_iff_code_toNat linkFaultOf_code _,
    eq_iff_code_toNat phaseOf_code _, ?_⟩
  cases h : s.fbValid <;> simp [hostRead, h]

end Sys2Proof.Machine
end

section
/-! SUPPORT. The reference inverse and the place of every cell: the bits of the frame buffer are the cells' bits, one by
one (20_memory.md R46), so a frame is known by the levels it unpacks to (40_frame_encoder.md R99, R101, R102). -/

namespace Sys2Proof.Machine

/-! ### The place of a cell (20_memory.md R44 to R46) -/

/-- Settles O12: the address map, computed from SEG_ORDER. -/
theorem segmentAddressMap : Obligations.SegmentAddressMap := by
  unfold Obligations.SegmentAddressMap
  decide

/-- The segments of an order do not overlap: an offset has one segment of it, and one index there. -/
theorem segBaseIn_injective {order : List (Quadrant × Plane)} {q q' : Quadrant} {p p' : Plane} {n n' : Nat}
    (hmem : (q, p) ∈ order) (hmem' : (q', p') ∈ order) (hn : n < segLength q) (hn' : n' < segLength q')
    (h : segBaseIn order q p + n = segBaseIn order q' p' + n') : (q, p) = (q', p') ∧ n = n' := by
  induction order with
  | nil => exact absurd hmem List.not_mem_nil
  | cons s rest ih =>
    rw [segBaseIn, segBaseIn] at h
    by_cases hs : s = (q, p) <;> by_cases hs' : s = (q', p')
    · rw [if_pos hs, if_pos hs'] at h
      exact ⟨hs.symm.trans hs', by omega⟩
    · have hq : s.1 = q := congrArg Prod.fst hs
      rw [if_pos hs, if_neg hs', hq] at h
      omega
    · have hq : s.1 = q' := congrArg Prod.fst hs'
      rw [if_neg hs, if_pos hs', hq] at h
      omega
    · rw [if_neg hs, if_neg hs'] at h
      exact ih ((List.mem_cons.1 hmem).resolve_left (Ne.symm hs)) ((List.mem_cons.1 hmem').resolve_left (Ne.symm hs'))
        (by omega)

/-- The segments of an order leave no gap: every offset below the sum of their lengths is in one of them. -/
theorem exists_segBaseIn {order : List (Quadrant × Plane)} (hnodup : order.Nodup) {k : Nat}
    (hk : k < (order.map (fun s => segLength s.1)).sum) :
    ∃ q p n, (q, p) ∈ order ∧ n < segLength q ∧ segBaseIn order q p + n = k := by
  induction order generalizing k with
  | nil => exact absurd hk (Nat.not_lt_zero k)
  | cons s rest ih =>
    obtain ⟨hs, hrest⟩ := List.nodup_cons.1 hnodup
    rw [List.map_cons, List.sum_cons] at hk
    by_cases hin : k < segLength s.1
    · exact ⟨s.1, s.2, k, List.mem_cons_self, hin, by rw [segBaseIn, if_pos rfl, Nat.zero_add]⟩
    · obtain ⟨q, p, n, hmem, hn, hbase⟩ := ih hrest (k := k - segLength s.1) (by omega)
      have hne : s ≠ (q, p) := fun h => hs (h ▸ hmem)
      exact ⟨q, p, n, List.mem_cons_of_mem _ hmem, hn, by rw [segBaseIn, if_neg hne]; omega⟩

/-- The index of a cell's byte in its segment lies inside the segment. -/
theorem locate_index_lt {r c : Nat} (hr : r < 984) (hc : c < 1304) :
    (r - quadRow (quadrantOf r c)) * bytesPerRow (quadrantOf r c) + (c - quadCol (quadrantOf r c)) / 8
      < segLength (quadrantOf r c) := by
  obtain ⟨⟨_, hrow⟩, _, hcol⟩ := quadrantOf_bounds hr hc
  have hi : r - quadRow (quadrantOf r c) < 492 := by omega
  have hj : (c - quadCol (quadrantOf r c)) / 8 < bytesPerRow (quadrantOf r c) := by omega
  rw [Nat.mul_comm]
  exact Nat.mul_add_lt_mul_of_lt_of_lt hi hj

/-- A cell inside a quadrant's rectangle is in that quadrant (20_memory.md R41). -/
theorem quadrantOf_add {q : Quadrant} {i j : Nat} (hi : i < 492) (hj : j < 8 * bytesPerRow q) :
    quadrantOf (quadRow q + i) (quadCol q + j) = q := by
  have hrow : quadRow q + i < cfg.rowSplit ↔ q = .topLeft ∨ q = .topRight := by
    have hsplit : cfg.rowSplit = 492 := rfl
    cases q <;> simp [quadRow, hsplit, hi]
  have hcol : quadCol q + j < cfg.colSplit ↔ q = .topLeft ∨ q = .bottomLeft := by
    have hsplit : cfg.colSplit = 648 := rfl
    have hleft : 8 * bytesPerRow .topLeft = 648 ∧ 8 * bytesPerRow .bottomLeft = 648 := by decide
    cases q <;> simp [quadCol, hsplit] <;> omega
  cases q <;> simp [quadrantOf, hrow, hcol]

/-- A quadrant's rectangle lies inside the panel (20_memory.md R41). -/
theorem quadrant_in_panel {q : Quadrant} {i j : Nat} (hi : i < 492) (hj : j < 8 * bytesPerRow q) :
    quadRow q + i < 984 ∧ quadCol q + j < 1304 := by
  have hedge : quadRow q + 492 ≤ 984 ∧ quadCol q + 8 * bytesPerRow q ≤ 1304 := by cases q <;> decide
  omega

/-- A cell is known by its bit in either plane, and the planes share none. -/
theorem locate_injective {r c r' c' : Nat} {p p' : Plane} (hr : r < 984) (hc : c < 1304) (hr' : r' < 984)
    (hc' : c' < 1304) (hbit : (locate r c).bit = (locate r' c').bit)
    (hoffset : (locate r c).offset p = (locate r' c').offset p') : p = p' ∧ r = r' ∧ c = c' := by
  rw [locate_offset, locate_offset] at hoffset
  obtain ⟨hsegment, hindex⟩ := segBaseIn_injective (segOrder_complete _ _) (segOrder_complete _ _)
    (locate_index_lt hr hc) (locate_index_lt hr' hc') hoffset
  obtain ⟨hq, hp⟩ := Prod.mk.inj hsegment
  have hbit8 : 7 - (c - quadCol (quadrantOf r c)) % 8 = 7 - (c' - quadCol (quadrantOf r' c')) % 8 := hbit
  obtain ⟨⟨hrow, _⟩, hcol, hcolEnd⟩ := quadrantOf_bounds hr hc
  obtain ⟨⟨hrow', _⟩, hcol', hcolEnd'⟩ := quadrantOf_bounds hr' hc'
  rw [← hq] at hindex hbit8 hrow' hcol' hcolEnd'
  generalize quadrantOf r c = q at hindex hbit8 hrow hcol hcolEnd hrow' hcol' hcolEnd'
  have hgroup : (c - quadCol q) / 8 < bytesPerRow q := by omega
  have hgroup' : (c' - quadCol q) / 8 < bytesPerRow q := by omega
  have hrows : r - quadRow q = r' - quadRow q := by
    have h := congrArg (· / bytesPerRow q) hindex
    simpa only [Nat.mul_comm _ (bytesPerRow q), Nat.mul_add_div (bytesPerRow_pos q), Nat.div_eq_of_lt hgroup,
      Nat.div_eq_of_lt hgroup', Nat.add_zero] using h
  rw [hrows] at hindex
  exact ⟨hp, by omega, by omega⟩

/-- Every bit of the frame buffer is some cell's. -/
theorem exists_locate {k b : Nat} (hk : k < 320784) (hb : b < 8) :
    ∃ r c p, r < 984 ∧ c < 1304 ∧ (locate r c).bit = b ∧ (locate r c).offset p = k := by
  obtain ⟨q, p, n, _, hn, hbase⟩ := exists_segBaseIn (order := cfg.segOrder) (by decide) (k := k) hk
  have hrow : n / bytesPerRow q < 492 := Nat.div_lt_of_lt_mul (Nat.mul_comm _ _ ▸ hn)
  have hgroup : n % bytesPerRow q < bytesPerRow q := Nat.mod_lt _ (bytesPerRow_pos q)
  have hcol : 8 * (n % bytesPerRow q) + (7 - b) < 8 * bytesPerRow q := by omega
  have hq := quadrantOf_add hrow hcol
  obtain ⟨hr, hc⟩ := quadrant_in_panel hrow hcol
  refine ⟨_, _, p, hr, hc, ?_, ?_⟩
  · show 7 - (_ - quadCol (quadrantOf _ _)) % 8 = b
    rw [hq]
    omega
  · have hcolumn : (8 * (n % bytesPerRow q) + (7 - b)) / 8 = n % bytesPerRow q := by omega
    rw [locate_offset, hq, Nat.add_sub_cancel_left, Nat.add_sub_cancel_left, hcolumn, Nat.mul_comm, Nat.div_add_mod]
    exact hbase

/-- Settles O13: a place is a segment, an index in it and a bit; segments tile the buffer. -/
theorem locateIsABijection : Obligations.LocateIsABijection := by
  refine ⟨fun r c hr hc => locate_lt hr hc, fun r c r' c' hr hc hr' hc' hbit => ⟨?_, ?_, ?_⟩, fun k b hk hb => ?_⟩
  · exact fun h => (locate_injective (p := .msb) (p' := .msb) hr hc hr' hc' hbit h).2
  · exact fun h => (locate_injective (p := .lsb) (p' := .lsb) hr hc hr' hc' hbit h).2
  · exact fun h => nomatch (locate_injective (p := .msb) (p' := .lsb) hr hc hr' hc' hbit h).1
  · obtain ⟨r, c, p, hr, hc, hbit, hoffset⟩ := exists_locate hk hb
    cases p with
    | msb => exact ⟨r, c, hr, hc, hbit, .inl hoffset⟩
    | lsb => exact ⟨r, c, hr, hc, hbit, .inr hoffset⟩

/-! ### What UNPACK reads of a cell (40_frame_encoder.md R101) -/

theorem levelOf_levelCode (v : Level) : levelOf (levelCode v) = some v := by cases v <;> rfl

/-- Two bits that are a level's code are the level's plane bits. -/
theorem levelOf_bits {x y : Bool} {v : Level} (h : levelOf (BitVec.ofBool x ++ BitVec.ofBool y) = some v) :
    x = levelBit .msb v ∧ y = levelBit .lsb v := by
  revert x y v
  decide

/-- Where the frame has a cell's two bytes, UNPACK reads the level of their bits. -/
theorem unpackCell_of_bytes {frame : List Byte} {r c : Nat} {mo lo : Byte}
    (hmo : frame[(locate r c).msbOffset]? = some mo) (hlo : frame[(locate r c).lsbOffset]? = some lo) :
    unpackCell frame r c
      = levelOf (BitVec.ofBool (mo.getLsbD (locate r c).bit) ++ BitVec.ofBool (lo.getLsbD (locate r c).bit)) := by
  simp only [unpackCell, hmo, hlo]

/-- A level UNPACK reads says what the cell's bit is in each plane. -/
theorem bit_of_unpackCell {frame : List Byte} {r c : Nat} {v : Level} (h : unpackCell frame r c = some v) (p : Plane) :
    ∃ b, frame[(locate r c).offset p]? = some b ∧ b.getLsbD (locate r c).bit = levelBit p v := by
  cases hmo : frame[(locate r c).msbOffset]? with
  | none => simp [unpackCell, hmo] at h
  | some mo =>
    cases hlo : frame[(locate r c).lsbOffset]? with
    | none => simp [unpackCell, hlo] at h
    | some lo =>
      rw [unpackCell_of_bytes hmo hlo] at h
      obtain ⟨hmsb, hlsb⟩ := levelOf_bits h
      cases p with
      | msb => exact ⟨mo, hmo, hmsb⟩
      | lsb => exact ⟨lo, hlo, hlsb⟩

/-- UNPACK reads a packed frame's cell as the level of the cell packed. -/
theorem unpackCell_packFrame (cell : Nat → Nat → Byte) {r c : Nat} (hr : r < 984) (hc : c < 1304) :
    unpackCell (packFrame cell) r c = some (quantize (cell r c)) := by
  obtain ⟨mo, hmo, hmsb⟩ := packFrame_at_locate cell .msb hr hc
  obtain ⟨lo, hlo, hlsb⟩ := packFrame_at_locate cell .lsb hr hc
  rw [unpackCell_of_bytes hmo hlo, hmsb, hlsb]
  exact (congrArg levelOf (levelCode_eq_levelBits _).symm).trans (levelOf_levelCode _)

/-- A legal frame is known by what it unpacks to. -/
theorem frame_ext_of_unpackCell {f g : List Byte} (hf : f.length = 320784) (hg : g.length = 320784)
    (h : ∀ r < 984, ∀ c < 1304, ∃ v, unpackCell f r c = some v ∧ unpackCell g r c = some v) : f = g := by
  refine List.ext_getElem (hf.trans hg.symm) fun k hkf hkg => BitVec.eq_of_getLsbD_eq fun b hb => ?_
  obtain ⟨r, c, p, hr, hc, rfl, rfl⟩ := exists_locate (hf ▸ hkf) hb
  obtain ⟨v, hvf, hvg⟩ := h r hr c hc
  obtain ⟨x, hx, hxbit⟩ := bit_of_unpackCell hvf p
  obtain ⟨y, hy, hybit⟩ := bit_of_unpackCell hvg p
  rw [List.getElem?_eq_getElem hkf, Option.some_inj] at hx
  rw [List.getElem?_eq_getElem hkg, Option.some_inj] at hy
  rw [hx, hy, hxbit, hybit]

/-! ### UNPACK of a whole frame (40_frame_encoder.md R101, R102) -/

/-- A function that answers for every entry of a list answers for the list. -/
theorem mapM_eq_some_map {α β : Type} {f : α → Option β} {g : α → β} {l : List α} (h : ∀ x ∈ l, f x = some (g x)) :
    l.mapM f = some (l.map g) := by
  induction l with
  | nil => rfl
  | cons x rest ih =>
    rw [List.mapM_cons, h x List.mem_cons_self, ih fun y hy => h y (List.mem_cons_of_mem _ hy)]
    rfl

/-- A function that rejects an entry of a list rejects the list. -/
theorem mapM_eq_none_of_mem {α β : Type} {f : α → Option β} {l : List α} {x : α} (hx : x ∈ l) (h : f x = none) :
    l.mapM f = none := by
  induction l with
  | nil => exact absurd hx List.not_mem_nil
  | cons y rest ih =>
    rw [List.mapM_cons]
    rcases List.mem_cons.1 hx with rfl | hx
    · rw [h]
      rfl
    · rw [ih hx]
      cases f y <;> rfl

theorem unpack_packFrame (cell : Nat → Nat → Byte) : unpack (packFrame cell) = some (levelGrid cell) := by
  rw [unpack, if_pos (packFrame_length cell)]
  refine mapM_eq_some_map fun r hr => mapM_eq_some_map fun c hc => ?_
  exact unpackCell_packFrame cell (List.mem_range.1 hr) (List.mem_range.1 hc)

/-- Settles O21: TRANSMIT's read after PACK is the packed frame, and UNPACK inverts packing cell by cell. -/
theorem unpackOfPackGivesTheLevels : Obligations.UnpackOfPackGivesTheLevels := fun s hidle hvalid =>
  ⟨_, packFrame s.ras.cell8, exec_pack_valid hidle hvalid, memRead_writeSegments s.ras.cell8 s.fb,
    unpack_packFrame s.ras.cell8⟩

/-- Settles O23: the bits 0 and 1 are no level's code, and one cell without a level rejects the frame. -/
theorem unpackRejectsTheReservedCode : Obligations.UnpackRejectsTheReservedCode := by
  intro frame r c mo lo hr hc hmo hlo hmsb hlsb
  have hcell : unpackCell frame r c = none := by
    rw [unpackCell_of_bytes hmo hlo, hmsb, hlsb]
    rfl
  rw [unpack]
  split
  · exact mapM_eq_none_of_mem (List.mem_range.2 hr) (mapM_eq_none_of_mem (List.mem_range.2 hc) hcell)
  · rfl

/-! ### Frames and levels (40_frame_encoder.md R99, R102) -/

/-- Packed frames agree exactly when the cells' levels do. -/
theorem packFrame_eq_iff (cell cell' : Nat → Nat → Byte) :
    packFrame cell = packFrame cell' ↔ ∀ r < 984, ∀ c < 1304, quantize (cell r c) = quantize (cell' r c) := by
  refine ⟨fun h r hr c hc => ?_, fun h => ?_⟩
  · rw [← Option.some_inj, ← unpackCell_packFrame cell hr hc, h, unpackCell_packFrame cell' hr hc]
  · refine frame_ext_of_unpackCell (packFrame_length cell) (packFrame_length cell') fun r hr c hc =>
      ⟨_, unpackCell_packFrame cell hr hc, ?_⟩
    rw [unpackCell_packFrame cell' hr hc, h r hr c hc]

theorem cellsFrom_injective (k : Nat) : Function.Injective (cellsFrom k) := fun a b h => by
  rw [← cellsFrom_bytes a k, h, cellsFrom_bytes]

/-- Settles O20: over a buffer in one of its two forms PACK leaves the packed frame alone. -/
theorem framesAgreeExactlyWhenLevelsDo : Obligations.FramesAgreeExactlyWhenLevelsDo := by
  intro s s' t t' hheld hheld' hvalid hvalid' hexec hexec'
  rw [exec_pack_fb hvalid hexec, exec_pack_fb hvalid' hexec', writeSegments_of_frameHeld s hheld,
    writeSegments_of_frameHeld s' hheld', (cellsFrom_injective 0).eq_iff, packFrame_eq_iff]

/-- An intensity of each level (40_frame_encoder.md R92). -/
def levelIntensity : Level → Int
  | .black => 0
  | .red => 128
  | .white => 255

theorem quantize_levelIntensity (v : Level) : quantize (BitVec.ofInt 8 (levelIntensity v)) = v := by cases v <;> rfl

theorem levelIntensity_range (v : Level) : 0 ≤ levelIntensity v ∧ levelIntensity v ≤ 255 := by cases v <;> decide

/-- The raster of a size whose every cell is listed, with an intensity of the level given for it. -/
def rasterOfLevels (rows cols : Nat) (level : Nat → Nat → Level) : Raster where
  rows := rows
  cols := cols
  base := 0
  cells := (List.range rows ×ˢ List.range cols).map fun rc => (rc, levelIntensity (level rc.1 rc.2))

theorem lookup_map_graph {f : Nat × Nat → Int} {l : List (Nat × Nat)} {x : Nat × Nat} (h : x ∈ l) :
    (l.map fun a => (a, f a)).lookup x = some (f x) := by
  induction l with
  | nil => exact absurd h List.not_mem_nil
  | cons y rest ih =>
    rw [List.map_cons, List.lookup_cons]
    by_cases hxy : x = y
    · simp [hxy]
    · rw [beq_false_of_ne hxy]
      exact ih ((List.mem_cons.1 h).resolve_left hxy)

theorem cell_rasterOfLevels {rows cols r c : Nat} (level : Nat → Nat → Level) (hr : r < rows) (hc : c < cols) :
    (rasterOfLevels rows cols level).cell r c = levelIntensity (level r c) := by
  have hmem : (r, c) ∈ List.range rows ×ˢ List.range cols :=
    List.mem_product.2 ⟨List.mem_range.2 hr, List.mem_range.2 hc⟩
  rw [Raster.cell, rasterOfLevels, lookup_map_graph (f := fun rc => levelIntensity (level rc.1 rc.2)) hmem,
    Option.getD_some]

theorem valid_rasterOfLevels (level : Nat → Nat → Level) : (rasterOfLevels 984 1304 level).valid = true := by
  refine (Raster.valid_iff _).2 ⟨rfl, rfl, fun r hr c hc => ?_⟩
  rw [cell_rasterOfLevels level hr hc]
  exact levelIntensity_range _

/-- Settles O22: the raster of the levels the frame unpacks to. -/
theorem everyLegalFrameIsPacked : Obligations.EveryLegalFrameIsPacked := by
  intro frame hlength hlegal
  refine ⟨rasterOfLevels 984 1304 fun r c => (unpackCell frame r c).getD .black, valid_rasterOfLevels _, ?_⟩
  refine frame_ext_of_unpackCell (packFrame_length _) hlength fun r hr c hc => ?_
  obtain ⟨v, hv⟩ := Option.ne_none_iff_exists'.1 (hlegal r hr c hc)
  refine ⟨v, ?_, hv⟩
  rw [unpackCell_packFrame _ hr hc, Raster.cell8, cell_rasterOfLevels _ hr hc, quantize_levelIntensity, hv,
    Option.getD_some]

end Sys2Proof.Machine
end

section
/-! SUPPORT. One step: what is fetched and run, what stops the machine, and the steps of the environment
(10_state.md R27, 41_link_protocol.md R115, R132); the pixel codes (30_encoding.md R61, R62); the three reading
micro-steps (41_link_protocol.md R112, R119, R124, R129). -/

namespace Sys2Proof.Machine

/-! ### Fetching and stepping (10_state.md R27) -/

theorem blockStep_of_run {s : State} {i : Instr} (h : fetch s = .run i) : blockStep s = exec i s := by
  simp only [blockStep, h]

theorem blockStep_of_wait {s : State} (h : fetch s = .wait) : blockStep s = .next s := by
  simp only [blockStep, h]

theorem blockStep_of_stop {s : State} {f : Fault} (h : fetch s = .stop f) : blockStep s = .fault f := by
  simp only [blockStep, h]

theorem step_of_envTurn {s : State} {e : EnvStep} {rest : List Turn} (h : s.sched = .env e :: rest) :
    step s = .next (envStep e { s with sched := rest }) := by
  simp only [step, h]

theorem fetch_idle_cmd {s : State} {op : BitVec 3} (hidle : s.phase = .idle) (hport : s.port = some (.cmd op)) :
    fetch s = .run (decodeCmd op) := by
  simp only [fetch, hidle, hport]

theorem fetch_idle_none {s : State} (hidle : s.phase = .idle) (hport : s.port = none) : fetch s = .wait := by
  simp only [fetch, hidle, hport]

/-- Settles O1: whose turn it is, and then what is fetched, decide the step. -/
theorem stepRunsTheFetchedInstruction : Obligations.StepRunsTheFetchedInstruction :=
  ⟨fun _ _ _ hturn hrun => ⟨fetch_wf hrun, (step_of_blockTurn hturn).trans (blockStep_of_run hrun)⟩,
    fun _ _ _ hturn hidle hport =>
      (step_of_blockTurn hturn).trans (blockStep_of_run (fetch_idle_cmd hidle hport)),
    fun _ _ hturn hidle hport => (step_of_blockTurn hturn).trans (blockStep_of_wait (fetch_idle_none hidle hport)),
    fun _ _ _ hturn hstop => (step_of_blockTurn hturn).trans (blockStep_of_stop hstop),
    fun _ _ _ => step_of_envTurn⟩

/-! The tokens without an operand are fetched by PHASE alone. -/

theorem fetch_openWait {s : State} (h : s.phase = .openWait) : fetch s = .run .rdy := by simp only [fetch, h]

theorem fetch_txCmd {s : State} (h : s.phase = .txCmd) : fetch s = .run .beginTx := by simp only [fetch, h]

theorem fetch_txAck {s : State} (h : s.phase = .txAck) : fetch s = .run .fack := by simp only [fetch, h]

theorem fetch_clCmd {s : State} (h : s.phase = .clCmd) : fetch s = .run .sleep := by simp only [fetch, h]

theorem fetch_clAck {s : State} (h : s.phase = .clAck) : fetch s = .run .sack := by simp only [fetch, h]

/-- Settles O2: five tokens by PHASE alone, FRAME with the payload of FB. -/
theorem eachPhaseFetchesItsToken : Obligations.EachPhaseFetchesItsToken :=
  fun _ => ⟨fetch_openWait, fetch_txCmd, fetch_txAck, fetch_clCmd, fetch_clAck, fun _ => fetch_txData⟩

/-- Settles O3: the reset state field by field, the constants, and a wait at PHASE Idle. -/
theorem resetLeavesTheStatedValues : Obligations.ResetLeavesTheStatedValues :=
  ⟨rfl, rfl, rfl, rfl, readByte_nil, rfl, rfl, rfl, rfl, rfl, rfl, rfl, rfl, rfl, rfl, rfl, rfl, rfl⟩

/-- Settles O4: at reset the link is Closed with no fault, and no frame is held. -/
theorem resetMeetsTheInvariant : Obligations.ResetMeetsTheInvariant :=
  ⟨⟨.inl rfl, fun _ => rfl, ⟨nofun, fun _ => rfl⟩, nofun, fun _ => rfl⟩,
    ⟨fun h => h.elim nofun nofun, fun _ _ => rfl⟩, nofun⟩

/-! ### Where an instruction has no step (R132, 30_encoding.md R63, R70) -/

theorem atPhase_of_ne {p : Phase} {s : State} (o : Out) (h : s.phase ≠ p) : atPhase p s o = .fault .noStep := if_neg h

/-- A well-formed FRAME is the write of its payload at TxData. -/
theorem exec_frame_of_length {payload : List Byte} (h : payload.length = cfg.frameBytes) (s : State) :
    exec (.frame payload) s = atPhase .txData s (writeStep payload .txAck s) := if_pos h

/-- Settles O29: every instruction tied to a PHASE is guarded by it. -/
theorem outOfPhaseThereIsNoStep : Obligations.OutOfPhaseThereIsNoStep := by
  intro s i p hwf hi hne
  cases i <;> cases hi
  case frame payload => rw [exec_frame_of_length (eq_of_beq hwf), atPhase_of_ne _ hne]
  all_goals exact atPhase_of_ne _ hne

/-- Settles O33. -/
theorem aPayloadOfAnotherLengthIsRefused : Obligations.APayloadOfAnotherLengthIsRefused :=
  fun _ _ hlength => if_neg hlength

/-! ### Pixel codes (30_encoding.md R61, R62, R70; 40_frame_encoder.md R94, R95) -/

theorem exec_pixelInstr (v : Level) (s : State) : exec (pixelInstr v) s = .next (enterPixel v s) := by
  cases v <;> rfl

theorem levelBit_msb_toNat (v : Level) : (levelBit .msb v).toNat = if v = .black then 0 else 1 := by cases v <;> rfl

theorem levelBit_lsb_toNat (v : Level) : (levelBit .lsb v).toNat = if v = .red then 1 else 0 := by cases v <;> rfl

/-- Settles O14: a pixel code pushes its level's two bits. -/
theorem pixelCodeEntersBothPlanes : Obligations.PixelCodeEntersBothPlanes := fun s v => by
  simp only [exec_pixelInstr, enterPixel, pushLevel, levelBit_msb_toNat, levelBit_lsb_toNat]

/-- Pixel codes one after another push their levels one after another, and do nothing else once the port is free. -/
theorem execAll_pixels (v : Nat → Level) (k : Nat) (ks : List Nat) (s : State) :
    execAll ((k :: ks).map fun k => pixelInstr (v k)) s
      = .next { s with port := none, lanes := (k :: ks).foldl (fun a k => pushLevel a (v k)) s.lanes } := by
  induction ks generalizing k s with
  | nil => simp only [List.map_cons, List.map_nil, execAll, exec_pixelInstr]; rfl
  | cons k' rest ih =>
    rw [List.map_cons, execAll, exec_pixelInstr]
    exact ih k' (enterPixel (v k) s)

/-- Eight levels bring the lane back to where it was. -/
theorem lane_eight (v : Nat → Level) (a : Lanes) :
    ((List.range 8).foldl (fun a k => pushLevel a (v k)) a).lane = a.lane := by
  have hround : ∀ l : BitVec 3, l + 1#3 + 1#3 + 1#3 + 1#3 + 1#3 + 1#3 + 1#3 + 1#3 = l := by decide
  exact hround a.lane

/-- Settles O15: the eight codes act on the lanes alone, as PACK's loop does. -/
theorem eightPixelCodesMakeTwoBytes : Obligations.EightPixelCodesMakeTwoBytes := by
  intro s v hlane
  have height : List.range 8 = 0 :: [1, 2, 3, 4, 5, 6, 7] := rfl
  refine ⟨{ s with port := none, lanes := (List.range 8).foldl (fun a k => pushLevel a (v k)) s.lanes }, ?_, rfl,
    (lane_eight v s.lanes).trans hlane, fun k hk => ?_⟩
  · rw [height]
    exact execAll_pixels v 0 [1, 2, 3, 4, 5, 6, 7] s
  · exact ⟨laneByte_eight .msb s.lanes hlane v k hk, laneByte_eight .lsb s.lanes hlane v k hk⟩

/-- Settles O16: no level has the code 01. -/
theorem reservedPixelCodeIsRefused : Obligations.ReservedPixelCodeIsRefused :=
  ⟨fun _ => rfl, fun v => by cases v <;> decide, rfl⟩

/-! ### The reading micro-steps (R112, R119, R124, R129) -/

theorem readStep_byte {s : State} {b : Byte} {rest : List Byte} (f : Byte → State → State) (g : Info → State → State)
    (hf : s.failNext = none) (ho : s.tOpen = true) (hq : s.rxq = b :: rest) :
    readStep s f g = .next (f b { s with rxq := rest }) := by
  rw [readStep, linkRead_byte hf ho hq]

theorem readStep_fail {s : State} {x : Failure} (f : Byte → State → State) (g : Info → State → State)
    (hx : s.failNext = some x) : readStep s f g = .next (g x.info { s with failNext := none }) := by
  rw [readStep, linkRead_fail hx]

theorem readStep_blocked {s : State} (f : Byte → State → State) (g : Info → State → State) (hf : s.failNext = none)
    (ho : s.tOpen = true) (hq : s.rxq = []) : readStep s f g = .next s := by
  rw [readStep, linkRead_blocked hf ho hq]

/-- Settles O30: at OpenWait the micro-step is a read that takes the ready byte alone, and drops an error's info. -/
theorem openReadsTheReadyByte : Obligations.OpenReadsTheReadyByte := by
  intro s hphase
  rw [show exec .rdy s = readStep s _ _ from atPhase_of _ hphase]
  exact ⟨fun _ => readStep_byte _ _, fun _ _ hf ho hq hb => (readStep_byte _ _ hf ho hq).trans (congrArg _ (if_neg hb)),
    fun _ => readStep_fail _ _, readStep_closed _ _, readStep_blocked _ _⟩

/-- Settles O34: at TxAck the micro-step is a read that takes the ready byte alone. -/
theorem transmitReadsTheAcknowledgment : Obligations.TransmitReadsTheAcknowledgment := by
  intro s hphase
  rw [show exec .fack s = readStep s _ _ from atPhase_of _ hphase]
  exact ⟨fun _ => readStep_byte _ _, fun _ _ hf ho hq hb => (readStep_byte _ _ hf ho hq).trans (congrArg _ (if_neg hb)),
    fun _ => readStep_fail _ _, fun hf ho => ⟨_, readStep_closed _ _ hf ho⟩, readStep_blocked _ _⟩

/-- Settles O36: at ClAck the micro-step is a read after which the transport is closed, whatever came. -/
theorem closeFinishesWithTheTransportClosed : Obligations.CloseFinishesWithTheTransportClosed := by
  intro s hphase
  rw [show exec .sack s = readStep s _ _ from atPhase_of _ hphase]
  exact ⟨fun _ => readStep_byte _ _, fun _ _ hf ho hq hb => (readStep_byte _ _ hf ho hq).trans (congrArg _ (if_neg hb)),
    fun _ => readStep_fail _ _, fun hf ho => ⟨_, readStep_closed _ _ hf ho⟩, readStep_blocked _ _⟩

/-! ### Waits (60_exceptions.md R173) -/

/-- At each of the three reads, with nothing to read and no error due, the micro-step changes nothing. -/
theorem blockStep_waiting {s : State} (h : waiting s) : blockStep s = .next s := by
  obtain ⟨hread, ho, hq, hf⟩ := h
  have blocked : ∀ {i p f g}, fetch s = .run i → s.phase = p → exec i s = atPhase p s (readStep s f g) →
      blockStep s = .next s := fun hfetch hp hexec =>
    (blockStep_of_run hfetch).trans (hexec.trans ((atPhase_of _ hp).trans (readStep_blocked _ _ hf ho hq)))
  rcases hread with hp | hp | hp
  · exact blocked (fetch_openWait hp) hp rfl
  · exact blocked (fetch_txAck hp) hp rfl
  · exact blocked (fetch_clAck hp) hp rfl

/-- Settles O38, by induction on the number of steps. -/
theorem aWaitNeverEnds : Obligations.AWaitNeverEnds := by
  intro s n hwait hsilent
  have hstep : step s = .next s := (step_of_blockTurn (.inl ⟨hsilent, rfl⟩)).trans (blockStep_waiting hwait)
  induction n with
  | zero => rfl
  | succ n ih => rw [stepN_succ_of_step n hstep, ih]

/-! ### The environment (R115) -/

/-- Settles O40: a turn of the environment is its step, on the schedule behind it. -/
theorem environmentSteps : Obligations.EnvironmentSteps := by
  intro s e rest hsched
  refine ⟨_, step_of_envTurn hsched, ?_, ?_, ?_, ?_, ?_, ?_, ?_, ?_⟩
  · obtain ⟨_, _, _, _, _, _, _, _, _, _, hrest⟩ := envStep_frame e { s with sched := rest }
    generalize envStep e { s with sched := rest } = t at hrest ⊢
    cases hrest
    rfl
  · rintro b rfl; rfl
  · rintro rfl; rfl
  · rintro f rfl; rfl
  · rintro rfl; rfl
  · rintro rx rfl; rfl
  · rintro ras rfl; rfl
  · rintro op rfl; rfl

end Sys2Proof.Machine
end

section
/-! SUPPORT. What every step keeps (41_link_protocol.md R116; 10_state.md R22, R24, R27 to R29): everything an
instruction can do, with one constructor per outcome, and each statement about all steps read off it. -/

namespace Sys2Proof.Machine

/-! ### The effect of an instruction -/

/-- From `s` to `u`: what the transport primitive of a failing token has done before the error is raised. -/
inductive FailedToken (i : Instr) (s : State) : State → Prop
  /-- A write that sent its first k bytes (41_link_protocol.md R113 b). -/
  | cutWrite {p : Phase} {bytes : List Byte} (k : Nat) (code : encode i = .tx p bytes) (phase : s.phase = p) :
    FailedToken i s { s with failNext := none, txh := s.txh ++ bytes.take k }
  /-- A read that took a byte other than the token's (R119, R124, R129). -/
  | wrongByte {p : Phase} {b b' : Byte} {rest : List Byte} (read : p = .openWait ∨ p = .txAck ∨ p = .clAck)
    (code : encode i = .rx p [b]) (phase : s.phase = p) (rxq : s.rxq = b' :: rest) :
    FailedToken i s { s with rxq := rest }
  /-- An error of the transport before any byte passed (R112, R113). -/
  | ioError {p : Phase} {bytes : List Byte} (f : Option Failure) (n : Nat)
    (code : encode i = .rx p bytes ∨ encode i = .tx p bytes) (phase : s.phase = p) :
    FailedToken i s { s with failNext := f, freeCtr := n }

/-- The next states of an instruction, by what it did. -/
inductive Effect (i : Instr) (s : State) : State → Prop
  /-- A pixel code (40_frame_encoder.md R95). -/
  | pixel (v : Level) (instr : i = pixelInstr v) : Effect i s (enterPixel v s)
  /-- A command that only delivers a result (R117, R127; 40_frame_encoder.md R98). -/
  | completes (r : Result) (instr : phaseOfInstr i = some .idle) (phase : s.phase = .idle) : Effect i s (complete r s)
  /-- PACK of a valid raster (40_frame_encoder.md R97). -/
  | packs (instr : i = .pack) (phase : s.phase = .idle) (valid : s.ras.valid = true) :
    Effect i s (complete .ok { s with fb := writeSegments s.ras.cell8 cfg.segOrder 0 s.fb, fbValid := true })
  /-- OPEN accepted (R118). -/
  | opens (instr : i = .openLink) (phase : s.phase = .idle) (link : s.linkState = .closed) :
    Effect i s { s with port := none, linkFault := .none, phase := .openWait }
  /-- TRANSMIT accepted (R121). -/
  | transmits (instr : i = .transmit) (phase : s.phase = .idle) (link : s.linkState = .awake)
    (frame : s.fbValid = true) : Effect i s { s with port := none, linkState := .transmitting, phase := .txCmd }
  /-- CLOSE accepted (R126). -/
  | closes (instr : i = .closeLink) (phase : s.phase = .idle) (link : s.linkState = .awake) :
    Effect i s { s with port := none, phase := .clCmd }
  /-- A token written whole (R122, R123, R128). -/
  | writes {p q : Phase} {bytes : List Byte}
    (next : (p, q) ∈ [(Phase.txCmd, Phase.txData), (.txData, .txAck), (.clCmd, .clAck)])
    (code : encode i = .tx p bytes) (phase : s.phase = p) :
    Effect i s { s with txh := s.txh ++ bytes, phase := q }
  /-- RDY or FACK read (R119, R124). -/
  | reads {p : Phase} {b : Byte} {rest : List Byte} (read : p = .openWait ∨ p = .txAck) (code : encode i = .rx p [b])
    (phase : s.phase = p) (isOpen : s.tOpen = true) (rxq : s.rxq = b :: rest) :
    Effect i s (complete .ok { s with rxq := rest, linkState := .awake, phase := .idle })
  /-- SACK read (R130). -/
  | finishes {b : Byte} {rest : List Byte} (code : encode i = .rx .clAck [b]) (phase : s.phase = .clAck)
    (rxq : s.rxq = b :: rest) : Effect i s (finishOk { s with rxq := rest })
  /-- A token that failed (60_exceptions.md R170). -/
  | fails (e : LinkError) {u : State} (token : FailedToken i s u) : Effect i s (raiseError e u)
  /-- A read that waits (60_exceptions.md R173). -/
  | waits {p : Phase} {b : Byte} (code : encode i = .rx p [b]) (phase : s.phase = p) : Effect i s s

/-- The effect of a token that is written. -/
theorem effect_of_writesToken {i : Instr} {p q : Phase} {bytes : List Byte} {s t : State}
    (hnext : (p, q) ∈ [(Phase.txCmd, Phase.txData), (.txData, .txAck), (.clCmd, .clAck)])
    (h : writesToken i p q bytes s t) : Effect i s t := by
  obtain ⟨hcode, hphase, ⟨_, _, rfl⟩ | ⟨info, u, rfl, ⟨k, rfl⟩ | rfl⟩⟩ := h
  · exact .writes hnext hcode hphase
  · exact .fails _ (.cutWrite k hcode hphase)
  · exact .fails _ (.ioError s.failNext _ (.inr hcode) hphase)

/-- The effect of a token that is read. -/
theorem effect_of_readsToken {i : Instr} {p : Phase} {b : Byte} {s t : State}
    (hread : p = .openWait ∨ p = .txAck ∨ p = .clAck) (h : readsToken i p b s t) : Effect i s t := by
  obtain ⟨hcode, hphase, ⟨rest, _, hopen, hrxq, rfl⟩ | ⟨e, u, rfl, ⟨b', rest, hrxq, rfl⟩ | rfl | rfl⟩
    | ⟨_, _, _, rfl⟩⟩ := h
  · rcases hread with rfl | rfl | rfl
    · exact .reads (.inl rfl) hcode hphase hopen hrxq
    · exact .reads (.inr rfl) hcode hphase hopen hrxq
    · exact .finishes hcode hphase hrxq
  · exact .fails e (.wrongByte hread hcode hphase hrxq)
  · exact .fails e (.ioError none s.freeCtr (.inl hcode) hphase)
  · exact .fails e (.ioError s.failNext _ (.inl hcode) hphase)
  · exact .waits hcode hphase

/-- Every next state of an instruction is one of its effects. -/
theorem effect_of_exec {i : Instr} {s t : State} (h : exec i s = .next t) : Effect i s t := by
  obtain ⟨v, hi, rfl⟩ | ⟨hi, hidle, hends⟩ | ⟨hi, hidle, hvalid, rfl⟩ | ⟨hi, hidle, hlink, rfl⟩
    | ⟨hi, hidle, hlink, hframe, rfl⟩ | ⟨hi, hidle, hlink, rfl⟩ | ⟨p, q, bytes, hnext, hwrite⟩
    | ⟨p, b, hread, htoken⟩ := exec_cases h
  · exact .pixel v hi
  · obtain ⟨_, _, _, rfl⟩ | ⟨_, _, rfl⟩ | ⟨_, rfl⟩ := hends <;> exact .completes _ hi hidle
  · exact .packs hi hidle hvalid
  · exact .opens hi hidle hlink
  · exact .transmits hi hidle hlink hframe
  · exact .closes hi hidle hlink
  · exact effect_of_writesToken hnext hwrite
  · exact effect_of_readsToken hread htoken

/-- What a failed token leaves alone. -/
theorem FailedToken.frame {i : Instr} {s u : State} (h : FailedToken i s u) :
    u.ras = s.ras ∧ u.fb = s.fb ∧ u.fbValid = s.fbValid ∧ u.lanes = s.lanes ∧ u.sched = s.sched
    ∧ u.results = s.results ∧ u.tcloses = s.tcloses := by
  cases h <;> exact ⟨rfl, rfl, rfl, rfl, rfl, rfl, rfl⟩

/-- A token belongs to the PHASE of its code, and that is not Idle (30_encoding.md R65). -/
theorem phaseOfInstr_of_token {i : Instr} {p : Phase} {bytes : List Byte}
    (h : encode i = .rx p bytes ∨ encode i = .tx p bytes) : phaseOfInstr i = some p ∧ p ≠ .idle := by
  cases i <;> rcases h with h | h <;> cases h <;> exact ⟨rfl, by decide⟩

theorem phaseOfInstr_ne_idle {i : Instr} {p : Phase} {bytes : List Byte}
    (h : encode i = .rx p bytes ∨ encode i = .tx p bytes) : phaseOfInstr i ≠ some .idle := fun hi => by
  obtain ⟨htoken, hp⟩ := phaseOfInstr_of_token h
  exact hp (Option.some.inj (htoken.symm.trans hi))

theorem FailedToken.token {i : Instr} {s u : State} (h : FailedToken i s u) :
    ∃ p bytes, (encode i = .rx p bytes ∨ encode i = .tx p bytes) ∧ s.phase = p := by
  cases h with
  | cutWrite k code phase => exact ⟨_, _, .inr code, phase⟩
  | wrongByte _ code phase _ => exact ⟨_, _, .inl code, phase⟩
  | ioError f n code phase => exact ⟨_, _, code, phase⟩

/-! ### Steps -/

/-- Everything one step can do: a step of the environment, a turn spent waiting, or the instruction fetched. -/
theorem step_runs {s t : State} (h : step s = .next t) :
    (∃ e rest, s.sched = .env e :: rest ∧ t = envStep e { s with sched := rest })
    ∨ ∃ q, q <:+ s.sched
      ∧ (t = { s with sched := q } ∨ ∃ i, fetch s = .run i ∧ exec i { s with sched := q } = .next t) := by
  obtain henv | ⟨u, hturn, hblock⟩ := step_cases h
  · exact .inl henv
  · have hu : ∃ q, q <:+ s.sched ∧ u = { s with sched := q } := by
      rcases hturn with ⟨_, rfl⟩ | ⟨rest, hsched, rfl⟩
      · exact ⟨_, List.suffix_rfl, rfl⟩
      · exact ⟨rest, hsched ▸ List.suffix_cons _ _, rfl⟩
    obtain ⟨q, hq, rfl⟩ := hu
    exact .inr ⟨q, hq, hblock.symm.imp And.right id⟩

/-- The same, with the effect of the instruction. -/
theorem step_effects {s t : State} (h : step s = .next t) :
    (∃ e rest, s.sched = .env e :: rest ∧ t = envStep e { s with sched := rest })
    ∨ ∃ q, t = { s with sched := q } ∨ ∃ i, fetch s = .run i ∧ Effect i { s with sched := q } t :=
  (step_runs h).imp_right fun ⟨q, _, hblock⟩ =>
    ⟨q, hblock.imp_right fun ⟨i, hfetch, hexec⟩ => ⟨i, hfetch, effect_of_exec hexec⟩⟩

/-! ### Results and closes (60_exceptions.md R168, R170; 41_link_protocol.md R114) -/

/-- A result comes only as the command ends. -/
theorem Effect.results {i : Instr} {s t : State} (h : Effect i s t) :
    t.results = s.results ∨ (t.phase = .idle ∧ t.port = none ∧ ∃ r, t.results = s.results ++ [r]) := by
  cases h with
  | pixel | opens | transmits | closes | writes | waits => exact .inl rfl
  | completes _ _ phase => exact .inr ⟨phase, rfl, _, rfl⟩
  | packs _ phase => exact .inr ⟨phase, rfl, _, rfl⟩
  | reads | finishes => exact .inr ⟨rfl, rfl, _, rfl⟩
  | fails e token =>
    obtain ⟨_, _, _, _, _, hresults, _⟩ := token.frame
    exact .inr ⟨rfl, rfl, _, by rw [raiseError_results, hresults]⟩

/-- Settles O46: the environment delivers nothing, and an instruction one result as its command ends. -/
theorem aStepDeliversAtMostOneResult : Obligations.AStepDeliversAtMostOneResult := by
  intro s t h
  obtain ⟨e, rest, _, rfl⟩ | ⟨q, rfl | ⟨i, _, heffect⟩⟩ := step_effects h
  · obtain ⟨_, _, _, _, _, _, _, hresults, _⟩ := envStep_frame e { s with sched := rest }
    exact .inl hresults
  · exact .inl rfl
  · exact heffect.results

/-- The transport is closed only where a link command ends in Closed. -/
theorem Effect.tcloses {i : Instr} {s t : State} (h : Effect i s t) :
    t.tcloses = s.tcloses
    ∨ (t.tcloses = s.tcloses + 1 ∧ t.tOpen = false ∧ t.linkState = .closed ∧ t.phase = .idle
      ∧ ∃ r, t.results = s.results ++ [r]) := by
  cases h with
  | pixel | completes | packs | opens | transmits | closes | writes | reads | waits => exact .inl rfl
  | finishes => exact .inr ⟨rfl, rfl, rfl, rfl, _, rfl⟩
  | fails e token =>
    obtain ⟨_, _, _, _, _, hresults, htcloses⟩ := token.frame
    exact .inr ⟨by rw [raiseError_tcloses, htcloses], rfl, rfl, rfl, _, by rw [raiseError_results, hresults]⟩

/-- Settles O47: LinkClose is called by the failure sequence and by CLOSE's finish, and by nothing else. -/
theorem aClosingStepEndsTheSession : Obligations.AClosingStepEndsTheSession := by
  intro s t h
  obtain ⟨e, rest, _, rfl⟩ | ⟨q, rfl | ⟨i, _, heffect⟩⟩ := step_effects h
  · obtain ⟨_, _, _, _, _, _, htcloses, _⟩ := envStep_frame e { s with sched := rest }
    exact .inl htcloses
  · exact .inl rfl
  · exact heffect.tcloses

/-! ### RXQ (10_state.md R29) -/

/-- An instruction takes at most the head of RXQ, and only if it is the token of a read. -/
theorem Effect.rxq {i : Instr} {s t : State} (h : Effect i s t) :
    t.rxq = s.rxq ∨ ∃ b p bytes, s.rxq = b :: t.rxq ∧ encode i = .rx p bytes ∧ s.phase = p
      ∧ (p = .openWait ∨ p = .txAck ∨ p = .clAck) := by
  cases h with
  | pixel | completes | packs | opens | transmits | closes | writes | waits => exact .inl rfl
  | reads read code phase _ rxq => exact .inr ⟨_, _, _, rxq, code, phase, read.imp_right .inl⟩
  | finishes code phase rxq => exact .inr ⟨_, _, _, rxq, code, phase, .inr (.inr rfl)⟩
  | fails e token =>
    cases token with
    | cutWrite | ioError => exact .inl rfl
    | wrongByte read code phase rxq => exact .inr ⟨_, _, _, rxq, code, phase, read⟩

/-- The environment adds one byte at the tail of RXQ, or attaches a transport with its own. -/
theorem envStep_rxq (e : EnvStep) (s : State) :
    (envStep e s).rxq = s.rxq
    ∨ (∃ b, (envStep e s).rxq = s.rxq ++ [b] ∧ s.tOpen = true)
    ∨ (∃ rx, e = .attach rx ∧ s.linkState = .closed ∧ s.phase = .idle ∧ (envStep e s).rxq = rx) := by
  cases e with
  | devTake | fail | oobClose => exact .inl rfl
  | devSend b =>
    rw [envStep]
    split
    · exact .inr (.inl ⟨b, rfl, ‹_›⟩)
    · exact .inl rfl
  | attach rx =>
    rw [envStep]
    split
    case isTrue h => exact .inr (.inr ⟨rx, rfl, h.1, h.2, rfl⟩)
    case isFalse => exact .inl rfl
  | present | issue =>
    rw [envStep]
    split <;> exact .inl rfl

/-- Settles O48: bytes enter RXQ at its tail and leave it at its head. -/
theorem receivedBytesAreKeptInOrder : Obligations.ReceivedBytesAreKeptInOrder := by
  intro s t h
  obtain ⟨e, rest, hsched, rfl⟩ | ⟨q, rfl | ⟨i, _, heffect⟩⟩ := step_effects h
  · obtain hsame | hsent | ⟨rx, rfl, hclosed, hidle, hrx⟩ := envStep_rxq e { s with sched := rest }
    · exact .inl hsame
    · exact .inr (.inr (.inl hsent))
    · exact .inr (.inr (.inr ⟨rx, rest, hsched, hclosed, hidle, hrx⟩))
  · exact .inl rfl
  · obtain hsame | ⟨b, p, _, hhead, _, rfl, hread⟩ := heffect.rxq
    · exact .inl hsame
    · exact .inr (.inl ⟨b, hhead, hread⟩)

/-! ### TXH (10_state.md R28) -/

/-- An instruction writes at most first bytes of its own code, at its PHASE. -/
theorem Effect.txh {i : Instr} {s t : State} (h : Effect i s t) :
    t.txh = s.txh ∨ ∃ p bytes k, encode i = .tx p bytes ∧ s.phase = p ∧ t.txh = s.txh ++ bytes.take k := by
  cases h with
  | pixel | completes | packs | opens | transmits | closes | reads | finishes | waits => exact .inl rfl
  | writes _ code phase => exact .inr ⟨_, _, _, code, phase, by rw [List.take_length]⟩
  | fails e token =>
    cases token with
    | cutWrite k code phase => exact .inr ⟨_, _, k, code, phase, rfl⟩
    | wrongByte | ioError => exact .inl rfl

theorem phaseOfInstr_decodePix : ∀ code : BitVec 2, phaseOfInstr (decodePix code) = none := by decide

/-- What is fetched: at PHASE Idle the code at the port, otherwise the token of the PHASE, FRAME with FB's payload. -/
theorem fetch_cases {s : State} {i : Instr} (h : fetch s = .run i) :
    (∃ op, s.phase = .idle ∧ s.port = some (.cmd op) ∧ i = decodeCmd op)
    ∨ (∃ code, s.phase = .idle ∧ s.port = some (.pix code) ∧ i = decodePix code)
    ∨ (s.phase ≠ .idle ∧ phaseOfInstr i = some s.phase
      ∧ ∀ payload, i = .frame payload → memRead s.fb 0 cfg.frameBytes = some payload) := by
  by_cases hidle : s.phase = .idle
  · rcases hport : s.port with _ | op | code
    · cases (fetch_idle_none hidle hport).symm.trans h
    · exact .inl ⟨op, hidle, rfl, Fetch.run.inj (h.symm.trans (fetch_idle_cmd hidle hport))⟩
    · simp only [fetch, hidle, hport, Fetch.run.injEq] at h
      exact .inr (.inl ⟨code, hidle, rfl, h.symm⟩)
  · refine .inr (.inr ⟨hidle, phaseOfInstr_fetch hidle h, ?_⟩)
    rintro payload rfl
    have hphase : s.phase = .txData := (Option.some.inj (phaseOfInstr_fetch hidle h)).symm
    rw [fetch, hphase] at h
    dsimp only at h
    split at h
    · cases h
      assumption
    · cases h

/-- A token is fetched only in the middle of a command, FRAME with FB's payload. -/
theorem fetch_token {s : State} {i : Instr} {p : Phase} (h : fetch s = .run i) (hi : phaseOfInstr i = some p)
    (hp : p ≠ .idle) {payload : List Byte} (hframe : i = .frame payload) :
    memRead s.fb 0 cfg.frameBytes = some payload := by
  obtain ⟨op, _, _, rfl⟩ | ⟨code, _, _, rfl⟩ | ⟨_, _, hpayload⟩ := fetch_cases h
  · exact absurd (Option.some.inj (hi.symm.trans (phaseOfInstr_decodeCmd op))) hp
  · exact nomatch hi.symm.trans (phaseOfInstr_decodePix code)
  · exact hpayload payload hframe

/-- The three codes the block writes (30_encoding.md R65). -/
theorem tx_code {i : Instr} {p : Phase} {bytes : List Byte} (h : encode i = .tx p bytes) :
    (p = .txCmd ∧ bytes = [0x72#8]) ∨ (p = .txData ∧ i = .frame bytes) ∨ (p = .clCmd ∧ bytes = [0x73#8]) := by
  cases i <;> cases h
  case beginTx => exact .inl ⟨rfl, rfl⟩
  case frame => exact .inr (.inl ⟨rfl, rfl⟩)
  case sleep => exact .inr (.inr ⟨rfl, rfl⟩)

/-- Settles O49: what is fetched at a writing PHASE has that PHASE's bytes. -/
theorem bytesAreWrittenAtThreePhasesOnly : Obligations.BytesAreWrittenAtThreePhasesOnly := by
  intro s t h
  obtain ⟨e, rest, _, rfl⟩ | ⟨q, rfl | ⟨i, hfetch, heffect⟩⟩ := step_effects h
  · obtain ⟨_, _, _, _, _, htxh, _⟩ := envStep_frame e { s with sched := rest }
    exact .inl htxh
  · exact .inl rfl
  · obtain hsame | ⟨p, bytes, k, hcode, hphase, htxh⟩ := heffect.txh
    · exact .inl hsame
    · obtain ⟨hi, hp⟩ := phaseOfInstr_of_token (.inr hcode)
      obtain ⟨rfl, rfl⟩ | ⟨rfl, hframe⟩ | ⟨rfl, rfl⟩ := tx_code hcode
      · exact .inr (.inl ⟨k, hphase, htxh⟩)
      · exact .inr (.inr (.inl ⟨k, bytes, hphase, fetch_token hfetch hi hp hframe, htxh⟩))
      · exact .inr (.inr (.inr ⟨k, hphase, htxh⟩))

/-! ### The frame buffer (10_state.md R24, 20_memory.md R54) -/

/-- PACK of a valid raster is the one instruction that changes the frame buffer. -/
theorem Effect.fb {i : Instr} {s t : State} (h : Effect i s t) :
    (t.fb = s.fb ∧ t.fbValid = s.fbValid)
    ∨ (i = .pack ∧ s.phase = .idle ∧ s.ras.valid = true
      ∧ t.fb = writeSegments s.ras.cell8 cfg.segOrder 0 s.fb ∧ t.fbValid = true) := by
  cases h with
  | pixel | completes | opens | transmits | closes | writes | reads | finishes | waits => exact .inl ⟨rfl, rfl⟩
  | packs instr phase valid => exact .inr ⟨instr, phase, valid, rfl, rfl⟩
  | fails e token =>
    obtain ⟨_, hfb, hfbValid, _⟩ := token.frame
    exact .inl ⟨hfb, hfbValid⟩

/-- PACK is fetched only as the command code 001. -/
theorem port_of_fetch_pack {s : State} (h : fetch s = .run .pack) : s.port = some (.cmd 0b001#3) := by
  obtain ⟨op, _, hport, hop⟩ | ⟨code, _, _, hcode⟩ | ⟨hbusy, hphase, _⟩ := fetch_cases h
  · have hcode : ∀ op : BitVec 3, .pack = decodeCmd op → op = 0b001#3 := by decide
    rw [hport, hcode op hop]
  · exact nomatch (congrArg phaseOfInstr hcode).trans (phaseOfInstr_decodePix code)
  · exact absurd (Option.some.inj hphase).symm hbusy

/-- Settles O50: PACK's eight writes leave the packed frame and, behind it, what stood there. -/
theorem onlyAValidPackChangesTheFrameBuffer : Obligations.OnlyAValidPackChangesTheFrameBuffer := by
  intro s t h
  obtain ⟨e, rest, _, rfl⟩ | ⟨q, rfl | ⟨i, hfetch, heffect⟩⟩ := step_effects h
  · obtain ⟨hfb, hfbValid, _⟩ := envStep_frame e { s with sched := rest }
    exact .inl ⟨hfb, hfbValid⟩
  · exact .inl ⟨rfl, rfl⟩
  · obtain hsame | ⟨rfl, hidle, hvalid, hfb, hfbValid⟩ := heffect.fb
    · exact .inl hsame
    · exact .inr ⟨hidle, port_of_fetch_pack hfetch, hvalid, hfb.trans (writeSegments_eq _ _), hfbValid⟩

/-! ### Frames (41_link_protocol.md R117 to R131, 40_frame_encoder.md R97) -/

/-- Settles O41: the effects of a command, PACK's read through `readByte`. -/
theorem commandFrame : Obligations.CommandFrame := by
  intro i s t hi h
  cases effect_of_exec h with
  | pixel v instr =>
    cases v <;> rw [instr] at hi <;> cases hi
  | completes r _ phase =>
    exact ⟨rfl, rfl, rfl, rfl, rfl, rfl, rfl, rfl, rfl, fun _ => ⟨rfl, fun _ => rfl⟩, fun _ _ _ => rfl, fun _ => rfl,
      fun _ => rfl, fun _ _ _ => rfl⟩
  | packs instr phase valid =>
    exact ⟨rfl, rfl, rfl, rfl, rfl, rfl, rfl, rfl, rfl, fun hne => absurd instr hne,
      fun hwf a ha => readByte_writeSegments_outside _ hwf ha, fun _ => rfl, fun _ => rfl, fun _ _ _ => rfl⟩
  | opens instr phase link =>
    exact ⟨rfl, rfl, rfl, rfl, rfl, rfl, rfl, rfl, rfl, fun _ => ⟨rfl, fun _ => rfl⟩, fun _ _ _ => rfl, fun _ => rfl,
      fun hne => absurd instr hne, fun hne _ _ => absurd instr hne⟩
  | transmits instr phase link frame =>
    exact ⟨rfl, rfl, rfl, rfl, rfl, rfl, rfl, rfl, rfl, fun _ => ⟨rfl, fun _ => rfl⟩, fun _ _ _ => rfl,
      fun hne => absurd instr hne, fun _ => rfl, fun _ hne _ => absurd instr hne⟩
  | closes instr phase link =>
    exact ⟨rfl, rfl, rfl, rfl, rfl, rfl, rfl, rfl, rfl, fun _ => ⟨rfl, fun _ => rfl⟩, fun _ _ _ => rfl, fun _ => rfl,
      fun _ => rfl, fun _ _ hne => absurd instr hne⟩
  | writes _ code => exact absurd hi (phaseOfInstr_ne_idle (.inr code))
  | reads _ code => exact absurd hi (phaseOfInstr_ne_idle (.inl code))
  | finishes code => exact absurd hi (phaseOfInstr_ne_idle (.inl code))
  | waits code => exact absurd hi (phaseOfInstr_ne_idle (.inl code))
  | fails e token =>
    obtain ⟨p, bytes, code, _⟩ := token.token
    exact absurd hi (phaseOfInstr_ne_idle code)

/-- A token leaves the encoder's side and the schedule alone. -/
theorem Effect.token_frame {i : Instr} {s t : State} {p : Phase} {bytes : List Byte} (h : Effect i s t)
    (hcode : encode i = .rx p bytes ∨ encode i = .tx p bytes) :
    t.ras = s.ras ∧ t.fb = s.fb ∧ t.fbValid = s.fbValid ∧ t.lanes = s.lanes ∧ t.sched = s.sched := by
  cases h with
  | pixel v instr =>
    rw [instr] at hcode
    cases v <;> exact hcode.elim nofun nofun
  | completes _ instr => exact absurd instr (phaseOfInstr_ne_idle hcode)
  | packs instr => exact absurd (congrArg phaseOfInstr instr) (phaseOfInstr_ne_idle hcode)
  | opens instr => exact absurd (congrArg phaseOfInstr instr) (phaseOfInstr_ne_idle hcode)
  | transmits instr => exact absurd (congrArg phaseOfInstr instr) (phaseOfInstr_ne_idle hcode)
  | closes instr => exact absurd (congrArg phaseOfInstr instr) (phaseOfInstr_ne_idle hcode)
  | writes | reads | finishes | waits => exact ⟨rfl, rfl, rfl, rfl, rfl⟩
  | fails e token =>
    obtain ⟨hras, hfb, hfbValid, hlanes, hsched, _⟩ := token.frame
    exact ⟨hras, hfb, hfbValid, hlanes, hsched⟩

/-- Settles O42: the direction of a token says which of RXQ and TXH it may change. -/
theorem tokenFrame : Obligations.TokenFrame := by
  intro i s t p bytes h hcode
  have heffect := effect_of_exec h
  obtain ⟨hras, hfb, hfbValid, hlanes, hsched⟩ := heffect.token_frame hcode
  refine ⟨hras, hfbValid, hlanes, hsched, fun a => by rw [hfb], fun hrx => ?_, fun htx => ?_⟩
  · obtain htxh | ⟨_, _, _, htx, _⟩ := heffect.txh
    · exact ⟨htxh, heffect.rxq.imp_right fun ⟨b, _, _, hhead, _⟩ => ⟨b, hhead⟩⟩
    · exact nomatch hrx.symm.trans htx
  · obtain hrxq | ⟨_, _, _, _, hrx, _⟩ := heffect.rxq
    · obtain htxh | ⟨_, _, k, htx', _, htxh⟩ := heffect.txh
      · exact ⟨hrxq, 0, by rw [htxh, List.take_zero, List.append_nil]⟩
      · cases htx.symm.trans htx'
        exact ⟨hrxq, k, htxh⟩
    · exact nomatch htx.symm.trans hrx

/-! ### The invariant (41_link_protocol.md R116) -/

/-- The invariant reads six fields of the state. -/
theorem RunInv.of_same {s t : State} (h : RunInv s) (hphase : t.phase = s.phase) (hlink : t.linkState = s.linkState)
    (hfault : t.linkFault = s.linkFault) (hfb : t.fb = s.fb) (hvalid : t.fbValid = s.fbValid)
    (hport : t.phase ≠ .idle → t.port = none) : RunInv t where
  phase := by simpa only [phaseAgrees, hphase, hlink] using h.phase
  fault := by simpa only [faultAgrees, hphase, hlink, hfault] using h.fault
  held := by simpa only [frameHeld, hfb, hvalid] using h.held
  ready := by simpa only [frameReady, hlink, hvalid] using h.ready
  port := hport

/-- Idle with the link Closed meets the invariant, whatever the fault. -/
theorem RunInv.of_idle_closed {s t : State} (h : RunInv s) (hphase : t.phase = .idle) (hlink : t.linkState = .closed)
    (hfb : t.fb = s.fb) (hvalid : t.fbValid = s.fbValid) : RunInv t where
  phase := by simp only [phaseAgrees, hphase, hlink, true_or]
  fault := by simp [faultAgrees, hphase, hlink]
  held := by simpa only [frameHeld, hfb, hvalid] using h.held
  ready := by simp [frameReady, hlink]
  port := fun hbusy => absurd hphase hbusy

/-- A step of the environment keeps the invariant: it presents a code at PHASE Idle only. -/
theorem RunInv.envStep {s : State} (h : RunInv s) (e : EnvStep) : RunInv (envStep e s) := by
  obtain ⟨hfb, hvalid, hlink, hfault, hphase, _⟩ := envStep_frame e s
  refine h.of_same hphase hlink hfault hfb hvalid fun hbusy => ?_
  rw [hphase] at hbusy
  obtain hport | ⟨_, _, hidle, _⟩ := envStep_port e s
  · rw [hport, h.port hbusy]
  · exact absurd hidle hbusy

/-- Where OPEN or TRANSMIT reads there is no fault. -/
theorem RunInv.no_fault_at_read {s : State} (h : RunInv s) (hread : s.phase = .openWait ∨ s.phase = .txAck) :
    s.linkFault = .none := by
  rcases hread with hp | hp
  · exact h.fault (.inr (.inr hp))
  · exact h.fault (.inr (.inl (by simpa only [phaseAgrees, hp] using h.phase)))

/-- The effect of an instruction keeps the invariant. -/
theorem RunInv.effect {i : Instr} {s t : State} (h : RunInv s) (heffect : Effect i s t) : RunInv t := by
  cases heffect with
  | pixel | completes => exact h.of_same rfl rfl rfl rfl rfl fun _ => rfl
  | packs _ phase valid =>
    have hheld : (writeSegments s.ras.cell8 cfg.segOrder 0 s.fb).map (·.1) = frameOffsets := by
      rw [writeSegments_of_frameHeld s h.held]
      exact cellsFrom_packFrame_offsets _
    exact ⟨h.phase, h.fault, ⟨fun _ => hheld, nofun⟩, fun _ => rfl, fun _ => rfl⟩
  | opens _ _ link => exact ⟨link, fun _ => rfl, h.held, h.ready, fun _ => rfl⟩
  | transmits _ _ link frame => exact ⟨rfl, fun _ => h.fault (.inl link), h.held, fun _ => frame, fun _ => rfl⟩
  | closes _ _ link => exact ⟨link, fun _ => h.fault (.inl link), h.held, h.ready, fun _ => rfl⟩
  | writes next code phase =>
    have hlink := h.phase
    have hport := h.port (phase ▸ (phaseOfInstr_of_token (.inr code)).2)
    simp only [List.mem_cons, Prod.mk.injEq, List.not_mem_nil, or_false] at next
    obtain ⟨rfl, rfl⟩ | ⟨rfl, rfl⟩ | ⟨rfl, rfl⟩ := next <;> simp only [phaseAgrees, phase] at hlink
    · exact ⟨hlink, fun _ => h.fault (.inr (.inl hlink)), h.held, h.ready, fun _ => hport⟩
    · exact ⟨hlink, fun _ => h.fault (.inr (.inl hlink)), h.held, h.ready, fun _ => hport⟩
    · exact ⟨hlink, fun _ => h.fault (.inl hlink), h.held, h.ready, fun _ => hport⟩
  | reads read _ phase =>
    exact ⟨.inr rfl, fun _ => h.no_fault_at_read (phase ▸ read), h.held, nofun, fun _ => rfl⟩
  | finishes => exact h.of_idle_closed rfl rfl rfl rfl
  | waits => exact h
  | fails e token =>
    obtain ⟨_, hfb, hvalid, _⟩ := token.frame
    exact h.of_idle_closed rfl rfl hfb hvalid

/-- Settles O43. -/
theorem everyStepKeepsTheInvariant : Obligations.EveryStepKeepsTheInvariant := by
  intro s t h hstep
  have hsched : ∀ q, RunInv { s with sched := q } := fun q => h.of_same rfl rfl rfl rfl rfl h.port
  obtain ⟨e, rest, _, rfl⟩ | ⟨q, rfl | ⟨i, _, heffect⟩⟩ := step_effects hstep
  · exact (hsched rest).envStep e
  · exact hsched q
  · exact (hsched q).effect heffect

/-! ### No stop (41_link_protocol.md R117, R132; 60_exceptions.md R173) -/

/-- A well-formed instruction at its PHASE never stops the machine. -/
theorem exec_next_of_phase {i : Instr} {s : State} (hwf : i.wf = true) (hi : phaseOfInstr i = some s.phase) :
    ∃ t, exec i s = .next t := by
  have hat : ∀ {p} {o : Out}, some p = some s.phase → (∃ t, o = .next t) → ∃ t, atPhase p s o = .next t :=
    fun hp ho => by rwa [atPhase_of _ (Option.some.inj hp).symm]
  have idle : some Phase.idle = some s.phase → s.phase = .idle := fun hp => (Option.some.inj hp).symm
  cases i with
  | black | white | red | pixReserved01 => cases hi
  | cmdReserved000 | cmdReserved101 | cmdReserved110 | cmdReserved111 => exact hat hi ⟨_, rfl⟩
  | rdy | fack | sack => exact hat hi (readStep_next _ _ _)
  | beginTx | sleep => exact hat hi (writeStep_next _ _ _)
  | frame payload =>
    rw [exec_frame_of_length (eq_of_beq hwf)]
    exact hat hi (writeStep_next _ _ _)
  | pack =>
    have hidle := idle hi
    obtain ⟨t, _, h, _⟩ := exec_pack_accepted hidle
    exact ⟨t, h⟩
  | openLink =>
    have hidle := idle hi
    by_cases hlink : s.linkState = .closed
    · exact ⟨_, exec_openLink_closed hidle hlink⟩
    · exact ⟨_, exec_openLink_refused hidle hlink⟩
  | transmit =>
    have hidle := idle hi
    by_cases hready : s.linkState = .awake ∧ s.fbValid = true
    · exact ⟨_, exec_transmit_accepted hidle hready.1 hready.2⟩
    · exact ⟨_, exec_transmit_refused hidle ((not_and_or.1 hready).imp_right Bool.eq_false_iff.2)⟩
  | closeLink =>
    have hidle := idle hi
    by_cases hlink : s.linkState = .awake
    · exact ⟨_, exec_closeLink_awake hidle hlink⟩
    · by_cases hfailed : s.linkState = .closed ∧ s.linkFault ≠ .none
      · exact ⟨_, exec_closeLink_failed hidle hfailed.1 hfailed.2⟩
      · exact ⟨_, exec_closeLink_refused hidle hlink hfailed⟩

/-- With a frame ready for TRANSMIT the fetch never stops. -/
theorem fetch_ne_stop {s : State} (h : RunInv s) (f : Fault) : fetch s ≠ .stop f := by
  intro hstop
  have hphase : s.phase = .txData := by
    unfold fetch at hstop
    split at hstop
    case h_4 hp => exact hp
    case h_1 => split at hstop <;> cases hstop
    all_goals cases hstop
  have hlink : s.linkState = .transmitting := by simpa only [phaseAgrees, hphase] using h.phase
  have hread := memRead_of_offsets (h.held.1 (h.ready hlink))
  exact nomatch (fetch_txData hphase hread).symm.trans hstop

/-- From a state of the invariant the block's turn never stops. -/
theorem blockStep_next {s : State} (h : RunInv s) (hpix : noPixelCode s) : ∃ t, blockStep s = .next t := by
  cases hfetch : fetch s with
  | wait => exact ⟨s, blockStep_of_wait hfetch⟩
  | stop f => exact absurd hfetch (fetch_ne_stop h f)
  | run i =>
    have hi : phaseOfInstr i = some s.phase := by
      obtain ⟨op, hidle, _, rfl⟩ | ⟨code, _, hport, _⟩ | ⟨_, hphase, _⟩ := fetch_cases hfetch
      · rw [hidle, phaseOfInstr_decodeCmd]
      · exact absurd hport (hpix code)
      · exact hphase
    rw [blockStep_of_run hfetch]
    exact exec_next_of_phase (fetch_wf hfetch) hi

/-- An instruction never puts a code at the port. -/
theorem Effect.port {i : Instr} {s t : State} (h : Effect i s t) : t.port = none ∨ t.port = s.port := by
  cases h with
  | pixel | completes | packs | opens | transmits | closes | reads | finishes | fails => exact .inl rfl
  | writes | waits => exact .inr rfl

/-- No step puts a pixel code at the port. -/
theorem noPixelCode_step {s t : State} (h : noPixelCode s) (hstep : step s = .next t) : noPixelCode t := by
  intro code hcode
  obtain ⟨e, rest, _, rfl⟩ | ⟨q, rfl | ⟨i, _, heffect⟩⟩ := step_effects hstep
  · obtain hport | ⟨op, _, _, _, hport⟩ := envStep_port e { s with sched := rest }
    · exact h code (hport.symm.trans hcode)
    · exact nomatch hport.symm.trans hcode
  · exact h code hcode
  · obtain hport | hport := heffect.port
    · exact nomatch hport.symm.trans hcode
    · exact h code (hport.symm.trans hcode)

/-- Settles O45: the block's turn goes on by the invariant, the environment's always. -/
theorem theMachineNeverStops : Obligations.TheMachineNeverStops := by
  intro s h hpix
  have hnext : ∃ t, step s = .next t := by
    rcases hsched : s.sched with _ | ⟨e | _, rest⟩
    · rw [step_of_blockTurn (.inl ⟨hsched, rfl⟩)]
      exact blockStep_next h hpix
    · exact ⟨_, step_of_envTurn hsched⟩
    · rw [step_of_blockTurn (.inr ⟨rest, hsched, rfl⟩)]
      exact blockStep_next (h.of_same rfl rfl rfl rfl rfl h.port) hpix
  obtain ⟨t, ht⟩ := hnext
  exact ⟨t, ht, everyStepKeepsTheInvariant s t h ht, noPixelCode_step hpix ht⟩

/-! ### The transport of a live and of a failed link (41_link_protocol.md R116) -/

/-- The effect of an instruction keeps (I3). -/
theorem transportAgrees_effect {i : Instr} {s t : State} (h : transportAgrees s) (heffect : Effect i s t) :
    transportAgrees t := by
  obtain ⟨hlive, hfailed⟩ := h
  cases heffect with
  | pixel | completes | packs | closes | writes | waits => exact ⟨hlive, hfailed⟩
  | opens _ _ link => exact ⟨hlive, fun _ hfault => absurd rfl hfault⟩
  | transmits _ _ link => exact ⟨fun _ => hlive (.inl link), nofun⟩
  | reads _ _ _ isOpen => exact ⟨fun _ => isOpen, nofun⟩
  | finishes | fails => exact ⟨fun h => h.elim nofun nofun, fun _ _ => rfl⟩

/-- Neither an out-of-band close nor an attachment: the environment leaves T_OPEN alone. -/
theorem envStep_tOpen {e : EnvStep} (hclose : e ≠ .oobClose) (hattach : ∀ rx, e ≠ .attach rx) (s : State) :
    (envStep e s).tOpen = s.tOpen := by
  cases e with
  | oobClose => exact absurd rfl hclose
  | attach rx => exact absurd rfl (hattach rx)
  | devTake | fail => rfl
  | devSend | present | issue =>
    rw [envStep]
    split <;> rfl

/-- Settles O44. -/
theorem stepsKeepTheTransportAgreement : Obligations.StepsKeepTheTransportAgreement := by
  intro s t hquiet h hstep
  obtain ⟨e, rest, hsched, rfl⟩ | ⟨q, rfl | ⟨i, _, heffect⟩⟩ := step_effects hstep
  · obtain ⟨hclose, hattach⟩ := hquiet e rest hsched
    obtain ⟨_, _, hlink, hfault, _⟩ := envStep_frame e { s with sched := rest }
    have hopen := envStep_tOpen hclose hattach { s with sched := rest }
    simpa only [transportAgrees, hlink, hfault, hopen] using h
  · exact h
  · exact transportAgrees_effect (s := { s with sched := q }) h heffect

end Sys2Proof.Machine
end

section
/-! SUPPORT. The host's calls and sessions, whatever the device and the environment do (41_link_protocol.md R134;
42_session.md R141 to R146): what each command leaves when it returns, and what a session has then sent and closed. -/

namespace Sys2Proof.Machine

/-! ### A call in progress -/

/-- What a command in progress changes step by step: where it stands, the link's state and what has been sent. -/
structure Control where
  phase     : Phase
  port      : Option Port
  linkState : LinkState
  linkFault : LinkFault
  txh       : List Byte

/-- The control part of a state. -/
def State.control (s : State) : Control where
  phase     := s.phase
  port      := s.port
  linkState := s.linkState
  linkFault := s.linkFault
  txh       := s.txh

/-- The host is blocked in its call (10_state.md R27). -/
def Control.busy (c : Control) : Prop := c.phase ≠ .idle ∨ c.port ≠ none

/-- From `m` to `s` within one call: no result has come, and nothing has happened but to the control part and to the
transport. A transport once closed stays so unless the schedule attaches another. -/
structure InCall (m s : State) : Prop where
  ras     : s.ras = m.ras
  fb      : s.fb = m.fb
  fbValid : s.fbValid = m.fbValid
  results : s.results = m.results
  tcloses : s.tcloses = m.tcloses
  sched   : s.sched <:+ m.sched
  closed  : (∀ rx, Turn.env (.attach rx) ∉ m.sched) → m.tOpen = false → s.tOpen = false

/-- An update of the control part and of what stands on the transport. -/
theorem inCall_update (s : State) (p : Phase) (o : Option Port) (l : LinkState) (f : LinkFault) (x q : List Byte)
    (n : Option Failure) (k : Nat) :
    InCall s { s with
      phase := p, port := o, linkState := l, linkFault := f, txh := x, rxq := q, failNext := n, freeCtr := k } :=
  ⟨rfl, rfl, rfl, rfl, rfl, List.suffix_rfl, fun _ h => h⟩

/-- Nothing attached by a schedule, nothing attached by what is left of it. -/
theorem no_attach_of_suffix {q q' : List Turn} (hq : q <:+ q') (h : ∀ rx, Turn.env (.attach rx) ∉ q') (rx : List Byte) :
    Turn.env (.attach rx) ∉ q := fun hmem => h rx (hq.subset hmem)

theorem InCall.trans {m s t : State} (h : InCall m s) (h' : InCall s t) : InCall m t where
  ras     := h'.ras.trans h.ras
  fb      := h'.fb.trans h.fb
  fbValid := h'.fbValid.trans h.fbValid
  results := h'.results.trans h.results
  tcloses := h'.tcloses.trans h.tcloses
  sched   := h'.sched.trans h.sched
  closed  := fun hattach hm => h'.closed (no_attach_of_suffix h.sched hattach) (h.closed hattach hm)

/-- The environment opens the transport by an attachment only. -/
theorem envStep_closed {e : EnvStep} {s : State} (hattach : ∀ rx, e ≠ .attach rx) (h : s.tOpen = false) :
    (envStep e s).tOpen = false := by
  by_cases hclose : e = .oobClose
  · rw [hclose]
    rfl
  · rw [envStep_tOpen hclose hattach, h]

/-- A step of the environment within a call leaves the control part alone. -/
theorem InCall.envStep {s : State} {e : EnvStep} {rest : List Turn} (hbusy : s.control.busy)
    (hsched : s.sched = .env e :: rest) :
    InCall s (envStep e { s with sched := rest }) ∧ (envStep e { s with sched := rest }).control = s.control := by
  obtain ⟨hfb, hvalid, hlink, hfault, hphase, htxh, htcloses, hresults, _, _, hrest⟩ :=
    envStep_frame e { s with sched := rest }
  obtain ⟨hport, hras⟩ := envStep_busy e (s := { s with sched := rest }) hbusy
  refine ⟨⟨hras, hfb, hvalid, hresults, htcloses, ?_, fun hattach h => envStep_closed (fun rx he => ?_) h⟩, ?_⟩
  · rw [hrest, hsched]
    exact List.suffix_cons _ _
  · exact hattach rx (by rw [hsched, he]; exact List.mem_cons_self)
  · simp only [State.control, hphase, hport, hlink, hfault, htxh]

/-- A host's command, from PHASE Idle with nothing at the port to its result: what holds of the control part while it
is in progress (`C`), and of the state and the result as it returns (`Q`), if every instruction fetched meanwhile leads
from the one to the one or to the other. -/
theorem issueCommand_rule {op : BitVec 3} {w w' : World} {r : Result} (C : Control → Prop) (Q : Result → State → Prop)
    (h : issueCommand op w = some (r, w')) (hidle : w.machine.phase = .idle) (hport : w.machine.port = none)
    (hstart : C { w.machine.control with port := some (.cmd op) }) (hbusy : ∀ c, C c → c.busy)
    (hrun : ∀ s i t, InCall w.machine s → C s.control → fetch s = .run i → exec i s = .next t →
      (InCall w.machine t ∧ C t.control) ∨ ∃ r, t.results = w.machine.results ++ [r] ∧ Q r t) :
    Q r w'.machine := by
  obtain ⟨fuel, hawait, hlast⟩ := issueCommand_cases h
  have hissue : envStep (.issue op) w.machine = { w.machine with port := some (.cmd op) } := if_pos ⟨hidle, hport⟩
  rw [hissue] at hawait
  have hstep : ∀ s t, InCall w.machine s ∧ C s.control → step s = .next t →
      (InCall w.machine t ∧ C t.control) ∨ ∃ r, t.results = w.machine.results ++ [r] ∧ Q r t := by
    rintro s t ⟨hcall, hc⟩ hst
    obtain ⟨e, rest, hsched, rfl⟩ | ⟨q, hq, hblock⟩ := step_runs hst
    · obtain ⟨henv, hcontrol⟩ := InCall.envStep (hbusy _ hc) hsched
      exact .inl ⟨hcall.trans henv, hcontrol ▸ hc⟩
    · have hturn : InCall w.machine { s with sched := q } :=
        hcall.trans ⟨rfl, rfl, rfl, rfl, rfl, hq, fun _ h => h⟩
      obtain rfl | ⟨i, hfetch, hexec⟩ := hblock
      · exact .inl ⟨hturn, hc⟩
      · exact hrun _ i t hturn hc hfetch hexec
  obtain ⟨r', hresults, hq⟩ := awaitResult_invariant (P := fun s => InCall w.machine s ∧ C s.control)
    (Q := fun t => ∃ r, t.results = w.machine.results ++ [r] ∧ Q r t) hstep
    (fun s q ⟨hcall, hc⟩ => ⟨hcall.trans (inCall_update s _ _ _ _ _ q _ _), hc⟩)
    (fun s ⟨hcall, _⟩ => congrArg List.length hcall.results)
    (fun s ⟨r, hresults, _⟩ => by rw [hresults, List.length_append]; exact Nat.lt_succ_self _)
    (w := { w with machine := { w.machine with port := some (.cmd op) } })
    ⟨inCall_update w.machine _ _ _ _ _ _ _ _, hstart⟩ hawait
  rw [hresults, List.getLast?_concat, Option.some_inj] at hlast
  rwa [← hlast]

/-! ### The micro-steps within a call -/

/-- A read within a call waits, takes a byte, or meets an error of the transport. -/
theorem readStep_inCall {s t : State} {f : Byte → State → State} {g : Info → State → State}
    (h : readStep s f g = .next t) :
    t = s ∨ ∃ u, InCall s u ∧ u.control = s.control ∧ ((∃ b, t = f b u) ∨ ∃ info, t = g info u) := by
  obtain ⟨b, rest, _, _, _, ht⟩ | ⟨info, u, ht, rfl | ⟨_, rfl⟩⟩ | ⟨_, _, _, ht⟩ := readStep_cases h
  · exact .inr ⟨{ s with rxq := rest }, inCall_update s _ _ _ _ _ _ _ _, rfl, .inl ⟨b, ht⟩⟩
  · exact .inr ⟨{ s with failNext := none }, inCall_update s _ _ _ _ _ _ _ _, rfl, .inr ⟨info, ht⟩⟩
  · exact .inr ⟨{ s with freeCtr := s.freeCtr + 1 }, inCall_update s _ _ _ _ _ _ _ _, rfl, .inr ⟨info, ht⟩⟩
  · exact .inl ht

/-- A write within a call sends its bytes and goes on, or sends first bytes of them and fails. -/
theorem writeStep_inCall {s t : State} {bytes : List Byte} {p : Phase} (h : writeStep bytes p s = .next t) :
    t = { s with txh := s.txh ++ bytes, phase := p }
    ∨ ∃ info u k, InCall s u ∧ u.txh = s.txh ++ bytes.take k ∧ t = raiseError (.transport info) u := by
  obtain ⟨_, _, ht⟩ | ⟨info, u, ht, ⟨k, rfl⟩ | rfl⟩ := writeStep_cases h
  · exact .inl ht
  · exact .inr ⟨info, { s with failNext := none, txh := s.txh ++ bytes.take k }, k, inCall_update s _ _ _ _ _ _ _ _,
      rfl, ht⟩
  · exact .inr ⟨info, { s with freeCtr := s.freeCtr + 1 }, 0, inCall_update s _ _ _ _ _ _ _ _,
      by rw [List.take_zero, List.append_nil], ht⟩

/-- OPEN's and TRANSMIT's reads within a call: a wait, the ready byte, or an error of the kinds the read raises. -/
theorem readReady_inCall {s t : State} {e : LinkError} {g : Info → LinkError}
    (h : readStep s (fun b t => if b = cfg.byteReady then complete .ok { t with linkState := .awake, phase := .idle }
      else raiseError e t) (fun info t => raiseError (g info) t) = .next t) :
    t = s
    ∨ (∃ u, InCall s u ∧ u.control = s.control ∧ t = complete .ok { u with linkState := .awake, phase := .idle })
    ∨ ∃ e' u, InCall s u ∧ u.control = s.control ∧ t = raiseError e' u ∧ (e' = e ∨ ∃ info, e' = g info) := by
  obtain hwait | ⟨u, hcall, hcontrol, ⟨b, ht⟩ | ⟨info, ht⟩⟩ := readStep_inCall h
  · exact .inl hwait
  · split at ht
    · exact .inr (.inl ⟨u, hcall, hcontrol, ht⟩)
    · exact .inr (.inr ⟨e, u, hcall, hcontrol, ht, .inl rfl⟩)
  · exact .inr (.inr ⟨_, u, hcall, hcontrol, ht, .inr ⟨info, rfl⟩⟩)

/-! ### What a call leaves -/

/-- Between calls: Idle with nothing at the port, the link in a state, so many closes behind it, so many bytes sent, and
no more turns to come than before. -/
structure Rest (m t : State) (l : LinkState) (closes : Nat) (sent : List Byte) : Prop where
  idle    : t.phase = .idle
  port    : t.port = none
  link    : t.linkState = l
  tcloses : t.tcloses = closes
  txh     : t.txh = sent
  sched   : t.sched <:+ m.sched

/-- A link command has ended in Closed, with its one close of the transport. -/
structure Ended (m t : State) (sent : List Byte) : Prop extends Rest m t .closed (m.tcloses + 1) sent where
  isClosed : t.tOpen = false

theorem linkErrorFault_ne_none (e : LinkError) : linkErrorFault e ≠ .none := by cases e <;> simp [linkErrorFault]

/-- The failure sequence ends a call in Closed. -/
theorem ended_raiseError {m u : State} {sent : List Byte} (e : LinkError) (h : InCall m u) (htxh : u.txh = sent) :
    (raiseError e u).results = m.results ++ [linkErrorResult e] ∧ Ended m (raiseError e u) sent :=
  ⟨congrArg (· ++ [linkErrorResult e]) h.results,
    ⟨⟨rfl, rfl, rfl, congrArg (· + 1) h.tcloses, htxh, h.sched⟩, rfl⟩⟩

/-- The ready byte ends a call in Awake. -/
theorem rest_awake {m u : State} {sent : List Byte} (h : InCall m u) (htxh : u.txh = sent) :
    (complete .ok { u with linkState := .awake, phase := .idle }).results = m.results ++ [.ok]
    ∧ Rest m (complete .ok { u with linkState := .awake, phase := .idle }) .awake m.tcloses sent :=
  ⟨congrArg (· ++ [Result.ok]) h.results, ⟨rfl, rfl, rfl, h.tcloses, htxh, h.sched⟩⟩

theorem txh_of_control {s u : State} (h : u.control = s.control) : u.txh = s.txh := congrArg Control.txh h

/-! ### OPEN (41_link_protocol.md R118, R119) -/

/-- OPEN in progress: accepted, or about to be; it sends nothing. -/
def OpenRuns (sent : List Byte) (c : Control) : Prop :=
  c.linkState = .closed ∧ c.txh = sent
  ∧ ((c.phase = .idle ∧ c.port = some (.cmd 0b010#3)) ∨ (c.phase = .openWait ∧ c.port = none))

/-- How OPEN returns: the link Awake, or LinkInitError and the link Closed. -/
def OpenReturns (m : State) (r : Result) (t : State) : Prop :=
  (r = .ok ∧ Rest m t .awake m.tcloses m.txh) ∨ (r = .linkInitError ∧ Ended m t m.txh)

theorem openReturns {w w' : World} {r : Result} (h : issueCommand 0b010#3 w = some (r, w'))
    (hidle : w.machine.phase = .idle) (hport : w.machine.port = none) (hclosed : w.machine.linkState = .closed) :
    OpenReturns w.machine r w'.machine := by
  refine issueCommand_rule (OpenRuns w.machine.txh) (OpenReturns w.machine) h hidle hport
    ⟨hclosed, rfl, .inl ⟨hidle, rfl⟩⟩ ?_ ?_
  · rintro c ⟨_, _, ⟨_, hc⟩ | ⟨hc, _⟩⟩
    · exact .inr (by simp [hc])
    · exact .inl (by simp [hc])
  · rintro s i t hs ⟨hlink, htxh, ⟨hp, hcmd⟩ | ⟨hp, hnone⟩⟩ hfetch hexec
    · obtain rfl : i = .openLink := Fetch.run.inj (hfetch.symm.trans (fetch_idle_cmd hp hcmd))
      obtain rfl := Host.Outcome.next.inj (hexec.symm.trans (exec_openLink_closed hp hlink))
      exact .inl ⟨hs.trans (inCall_update s _ _ _ _ _ _ _ _), hlink, htxh, .inr ⟨rfl, rfl⟩⟩
    · obtain rfl : i = .rdy := Fetch.run.inj (hfetch.symm.trans (fetch_openWait hp))
      obtain rfl | ⟨u, hu, hcontrol, rfl⟩ | ⟨e, u, hu, hcontrol, rfl, he⟩ := readReady_inCall (atPhase_next hexec).2
      · exact .inl ⟨hs, hlink, htxh, .inr ⟨hp, hnone⟩⟩
      · obtain ⟨hresults, hrest⟩ := rest_awake (hs.trans hu) ((txh_of_control hcontrol).trans htxh)
        exact .inr ⟨_, hresults, .inl ⟨rfl, hrest⟩⟩
      · obtain rfl : e = .linkInit := by simpa using he
        obtain ⟨hresults, hended⟩ := ended_raiseError .linkInit (hs.trans hu) ((txh_of_control hcontrol).trans htxh)
        exact .inr ⟨_, hresults, .inr ⟨rfl, hended⟩⟩

/-! ### PACK (40_frame_encoder.md R97, R98) -/

/-- PACK at the port: it has one micro-step, and no other effect on the control part. -/
def PackRuns (m : State) (c : Control) : Prop :=
  c.phase = .idle ∧ c.port = some (.cmd 0b001#3) ∧ c.linkState = m.linkState ∧ c.txh = m.txh

/-- How PACK returns: with the packed frame in FB, or InvalidFrame; the link is where it was. -/
def PackReturns (m : State) (r : Result) (t : State) : Prop :=
  Rest m t m.linkState m.tcloses m.txh
  ∧ ((r = .ok ∧ m.ras.valid = true ∧ t.fbValid = true ∧ memRead t.fb 0 cfg.frameBytes = some (packFrame m.ras.cell8))
    ∨ (r = .invalidFrame ∧ m.ras.valid = false))

theorem packReturns {w w' : World} {r : Result} (h : issueCommand 0b001#3 w = some (r, w'))
    (hidle : w.machine.phase = .idle) (hport : w.machine.port = none) : PackReturns w.machine r w'.machine := by
  refine issueCommand_rule (PackRuns w.machine) (PackReturns w.machine) h hidle hport ⟨hidle, rfl, rfl, rfl⟩ ?_ ?_
  · rintro c ⟨_, hc, _⟩
    exact .inr (by simp [hc])
  · rintro s i t hs ⟨hp, hcmd, hlink, htxh⟩ hfetch hexec
    obtain rfl : i = .pack := Fetch.run.inj (hfetch.symm.trans (fetch_idle_cmd hp hcmd))
    obtain ⟨_, ⟨hvalid, rfl⟩ | ⟨hinvalid, rfl⟩⟩ := exec_pack_cases hexec
    · refine .inr ⟨.ok, congrArg (· ++ [Result.ok]) hs.results, ⟨hp, rfl, hlink, hs.tcloses, htxh, hs.sched⟩,
        .inl ⟨rfl, hs.ras ▸ hvalid, rfl, ?_⟩⟩
      rw [← hs.ras]
      exact memRead_writeSegments _ _
    · exact .inr ⟨.invalidFrame, congrArg (· ++ [Result.invalidFrame]) hs.results,
        ⟨hp, rfl, hlink, hs.tcloses, htxh, hs.sched⟩, .inr ⟨rfl, hs.ras ▸ hinvalid⟩⟩

/-! ### TRANSMIT (41_link_protocol.md R121 to R124) -/

/-- TRANSMIT in progress: what it has sent at each PHASE. -/
def TransmitRuns (sent frame : List Byte) (c : Control) : Prop :=
  (c.phase = .idle ∧ c.port = some (.cmd 0b011#3) ∧ c.linkState = .awake ∧ c.txh = sent)
  ∨ (c.phase = .txCmd ∧ c.txh = sent)
  ∨ (c.phase = .txData ∧ c.txh = sent ++ [cfg.byteReady])
  ∨ (c.phase = .txAck ∧ c.txh = sent ++ encodeMessage (.frame frame))

/-- How TRANSMIT returns: Awake with the whole message sent, or Closed with first bytes of it sent. -/
def TransmitReturns (m : State) (frame : List Byte) (r : Result) (t : State) : Prop :=
  (r = .ok ∧ Rest m t .awake m.tcloses (m.txh ++ encodeMessage (.frame frame)))
  ∨ ((r = .frameNotAcknowledged ∨ ∃ info, r = .transportError info) ∧ t.linkFault ≠ .none
    ∧ ∃ k, Ended m t (m.txh ++ (encodeMessage (.frame frame)).take k))

/-- First bytes of a message's first byte are first bytes of the message. -/
theorem take_begin (frame : List Byte) (k : Nat) :
    ∃ j, [cfg.byteReady].take k = (encodeMessage (.frame frame)).take j := by
  cases k with
  | zero => exact ⟨0, rfl⟩
  | succ k => exact ⟨1, by rw [List.take_succ_cons, List.take_nil]; rfl⟩

theorem transmitReturns_failed {m u : State} {frame : List Byte} {k : Nat} {e : LinkError}
    (he : e = .frameNotAcknowledged ∨ ∃ info, e = .transport info) (h : InCall m u)
    (htxh : u.txh = m.txh ++ (encodeMessage (.frame frame)).take k) :
    ∃ r, (raiseError e u).results = m.results ++ [r] ∧ TransmitReturns m frame r (raiseError e u) := by
  obtain ⟨hresults, hended⟩ := ended_raiseError e h htxh
  refine ⟨_, hresults, .inr ⟨?_, linkErrorFault_ne_none e, k, hended⟩⟩
  rcases he with rfl | ⟨info, rfl⟩
  · exact .inl rfl
  · exact .inr ⟨info, rfl⟩

theorem transmitReturns {w w' : World} {r : Result} {frame : List Byte} (h : issueCommand 0b011#3 w = some (r, w'))
    (hidle : w.machine.phase = .idle) (hport : w.machine.port = none) (hawake : w.machine.linkState = .awake)
    (hvalid : w.machine.fbValid = true) (hread : memRead w.machine.fb 0 cfg.frameBytes = some frame) :
    TransmitReturns w.machine frame r w'.machine := by
  refine issueCommand_rule (TransmitRuns w.machine.txh frame) (TransmitReturns w.machine frame) h hidle hport
    (.inl ⟨hidle, rfl, hawake, rfl⟩) ?_ ?_
  · rintro c (⟨_, hc, _⟩ | ⟨hc, _⟩ | ⟨hc, _⟩ | ⟨hc, _⟩)
    · exact .inr (by simp [hc])
    all_goals exact .inl (by simp [hc])
  · rintro s i t hs (⟨hp, hcmd, hlink, htxh⟩ | ⟨hp, htxh⟩ | ⟨hp, htxh⟩ | ⟨hp, htxh⟩) hfetch hexec
    · obtain rfl : i = .transmit := Fetch.run.inj (hfetch.symm.trans (fetch_idle_cmd hp hcmd))
      obtain rfl := Host.Outcome.next.inj
        (hexec.symm.trans (exec_transmit_accepted hp hlink (hs.fbValid.trans hvalid)))
      exact .inl ⟨hs.trans (inCall_update s _ _ _ _ _ _ _ _), .inr (.inl ⟨rfl, htxh⟩)⟩
    · obtain rfl : i = .beginTx := Fetch.run.inj (hfetch.symm.trans (fetch_txCmd hp))
      obtain rfl | ⟨info, u, k, hu, hcut, rfl⟩ := writeStep_inCall (atPhase_next hexec).2
      · exact .inl ⟨hs.trans (inCall_update s _ _ _ _ _ _ _ _), .inr (.inr (.inl ⟨rfl, congrArg (· ++ _) htxh⟩))⟩
      · obtain ⟨j, hj⟩ := take_begin frame k
        exact .inr (transmitReturns_failed (k := j) (.inr ⟨info, rfl⟩) (hs.trans hu)
          (hcut.trans (congrArg₂ (· ++ ·) htxh hj)))
    · rw [← hs.fb] at hread
      obtain rfl : i = .frame frame := Fetch.run.inj (hfetch.symm.trans (fetch_txData hp hread))
      rw [exec_frame_at (memRead_length hread) hp] at hexec
      have hmessage : ∀ bytes : List Byte, s.txh ++ bytes = w.machine.txh ++ cfg.byteReady :: bytes := fun bytes => by
        rw [show s.txh = _ from htxh, List.append_assoc, List.singleton_append]
      obtain rfl | ⟨info, u, k, hu, hcut, rfl⟩ := writeStep_inCall hexec
      · exact .inl ⟨hs.trans (inCall_update s _ _ _ _ _ _ _ _), .inr (.inr (.inr ⟨rfl, hmessage frame⟩))⟩
      · exact .inr (transmitReturns_failed (k := k + 1) (.inr ⟨info, rfl⟩) (hs.trans hu) (hcut.trans (hmessage _)))
    · obtain rfl : i = .fack := Fetch.run.inj (hfetch.symm.trans (fetch_txAck hp))
      obtain rfl | ⟨u, hu, hcontrol, rfl⟩ | ⟨e, u, hu, hcontrol, rfl, he⟩ := readReady_inCall (atPhase_next hexec).2
      · exact .inl ⟨hs, .inr (.inr (.inr ⟨hp, htxh⟩))⟩
      · obtain ⟨hresults, hrest⟩ := rest_awake (hs.trans hu) ((txh_of_control hcontrol).trans htxh)
        exact .inr ⟨_, hresults, .inl ⟨rfl, hrest⟩⟩
      · refine .inr (transmitReturns_failed (k := (encodeMessage (.frame frame)).length) he (hs.trans hu) ?_)
        rw [List.take_length]
        exact (txh_of_control hcontrol).trans htxh

/-! ### CLOSE (41_link_protocol.md R126 to R130) -/

/-- CLOSE from Awake in progress. -/
def CloseRuns (sent : List Byte) (c : Control) : Prop :=
  (c.phase = .idle ∧ c.port = some (.cmd 0b100#3) ∧ c.linkState = .awake ∧ c.txh = sent)
  ∨ (c.phase = .clCmd ∧ c.txh = sent)
  ∨ (c.phase = .clAck ∧ c.txh = sent ++ encodeMessage .sleep)

/-- How CLOSE from Awake returns: in Closed, with at most the sleep byte sent, and with Ok the whole of it. -/
def CloseReturns (m : State) (r : Result) (t : State) : Prop :=
  ∃ k, Ended m t (m.txh ++ (encodeMessage .sleep).take k)
    ∧ (r = .ok → (encodeMessage .sleep).take k = encodeMessage .sleep)

theorem closeReturns {w w' : World} {r : Result} (h : issueCommand 0b100#3 w = some (r, w'))
    (hidle : w.machine.phase = .idle) (hport : w.machine.port = none) (hawake : w.machine.linkState = .awake) :
    CloseReturns w.machine r w'.machine := by
  have failed : ∀ {u : State} {k : Nat} (e : LinkError), InCall w.machine u →
      u.txh = w.machine.txh ++ (encodeMessage .sleep).take k →
      ∃ r, (raiseError e u).results = w.machine.results ++ [r] ∧ CloseReturns w.machine r (raiseError e u) := by
    intro u k e hu htxh
    obtain ⟨hresults, hended⟩ := ended_raiseError e hu htxh
    exact ⟨_, hresults, k, hended, fun hok => absurd hok (linkErrorResult_ne_ok e)⟩
  refine issueCommand_rule (CloseRuns w.machine.txh) (CloseReturns w.machine) h hidle hport
    (.inl ⟨hidle, rfl, hawake, rfl⟩) ?_ ?_
  · rintro c (⟨_, hc, _⟩ | ⟨hc, _⟩ | ⟨hc, _⟩)
    · exact .inr (by simp [hc])
    all_goals exact .inl (by simp [hc])
  · rintro s i t hs (⟨hp, hcmd, hlink, htxh⟩ | ⟨hp, htxh⟩ | ⟨hp, htxh⟩) hfetch hexec
    · obtain rfl : i = .closeLink := Fetch.run.inj (hfetch.symm.trans (fetch_idle_cmd hp hcmd))
      obtain rfl := Host.Outcome.next.inj (hexec.symm.trans (exec_closeLink_awake hp hlink))
      exact .inl ⟨hs.trans (inCall_update s _ _ _ _ _ _ _ _), .inr (.inl ⟨rfl, htxh⟩)⟩
    · obtain rfl : i = .sleep := Fetch.run.inj (hfetch.symm.trans (fetch_clCmd hp))
      obtain rfl | ⟨info, u, k, hu, hcut, rfl⟩ := writeStep_inCall (atPhase_next hexec).2
      · exact .inl ⟨hs.trans (inCall_update s _ _ _ _ _ _ _ _), .inr (.inr ⟨rfl, congrArg (· ++ _) htxh⟩)⟩
      · exact .inr (failed _ (hs.trans hu) (hcut.trans (congrArg (· ++ _) htxh)))
    · obtain rfl : i = .sack := Fetch.run.inj (hfetch.symm.trans (fetch_clAck hp))
      have hwhole : s.txh = w.machine.txh ++ (encodeMessage .sleep).take 1 := htxh
      obtain rfl | ⟨u, hu, hcontrol, ⟨b, ht⟩ | ⟨info, rfl⟩⟩ := readStep_inCall (atPhase_next hexec).2
      · exact .inl ⟨hs, .inr (.inr ⟨hp, htxh⟩)⟩
      · have hcall := hs.trans hu
        have htxh' := (txh_of_control hcontrol).trans hwhole
        split at ht
        · rw [ht]
          exact .inr ⟨.ok, congrArg (· ++ [Result.ok]) hcall.results, 1,
            ⟨⟨rfl, rfl, rfl, congrArg (· + 1) hcall.tcloses, htxh', hcall.sched⟩, rfl⟩, fun _ => rfl⟩
        · rw [ht]
          exact .inr (failed _ hcall htxh')
      · exact .inr (failed _ (hs.trans hu) ((txh_of_control hcontrol).trans hwhole))

/-- CLOSE after a failure in progress: its one micro-step only delivers Ok. -/
def NoopCloseRuns (sent : List Byte) (c : Control) : Prop :=
  c.phase = .idle ∧ c.port = some (.cmd 0b100#3) ∧ c.linkState = .closed ∧ c.linkFault ≠ .none ∧ c.txh = sent

/-- How CLOSE after a failure returns: nothing has been sent, and the transport is not closed again (R127). -/
def NoopCloseReturns (m t : State) : Prop :=
  Rest m t .closed m.tcloses m.txh ∧ ((∀ rx, Turn.env (.attach rx) ∉ m.sched) → m.tOpen = false → t.tOpen = false)

theorem noopCloseReturns {w w' : World} {r : Result} (h : issueCommand 0b100#3 w = some (r, w'))
    (hidle : w.machine.phase = .idle) (hport : w.machine.port = none) (hclosed : w.machine.linkState = .closed)
    (hfault : w.machine.linkFault ≠ .none) : NoopCloseReturns w.machine w'.machine := by
  refine issueCommand_rule (NoopCloseRuns w.machine.txh) (fun _ => NoopCloseReturns w.machine) h hidle hport
    ⟨hidle, rfl, hclosed, hfault, rfl⟩ ?_ ?_
  · rintro c ⟨_, hc, _⟩
    exact .inr (by simp [hc])
  · rintro s i t hs ⟨hp, hcmd, hlink, hf, htxh⟩ hfetch hexec
    obtain rfl : i = .closeLink := Fetch.run.inj (hfetch.symm.trans (fetch_idle_cmd hp hcmd))
    obtain rfl := Host.Outcome.next.inj (hexec.symm.trans (exec_closeLink_failed hp hlink hf))
    exact .inr ⟨.ok, congrArg (· ++ [Result.ok]) hs.results, ⟨hp, rfl, hlink, hs.tcloses, htxh, hs.sched⟩, hs.closed⟩

/-! ### The body (42_session.md R142, R143) -/

/-- What a call leaves, seen from a state before the calls that went before it. -/
theorem Rest.after {m t u : State} {l : LinkState} {closes closes' : Nat} {sent sent' : List Byte}
    (h : Rest m t .awake closes sent) (h' : Rest t u l closes' sent') : Rest m u l closes' sent' :=
  { h' with sched := h'.sched.trans h.sched }

theorem Ended.after {m t u : State} {sent sent' : List Byte} (h : Rest m t .awake m.tcloses sent)
    (h' : Ended t u sent') : Ended m u sent' :=
  ⟨h.after (h.tcloses ▸ h'.toRest), h'.isClosed⟩

/-- The bytes of an operation's message. -/
def opBytes (o : BodyOp) : List Byte := encodeMessage (.frame (packFrame (bodyRaster o).cell8))

/-- How one operation of a body returns, `sent` being what went out before it: its message sent whole; its TRANSMIT
failed; or its raster refused by PACK. -/
inductive SendReturns (m : State) (sent : List Byte) (o : BodyOp) (t : State) : Result → Prop
  | sent (valid : (bodyRaster o).valid = true) (rest : Rest m t .awake m.tcloses (sent ++ opBytes o)) :
    SendReturns m sent o t .ok
  | failed {r : Result} (k : Nat) (valid : (bodyRaster o).valid = true)
    (error : r = .frameNotAcknowledged ∨ ∃ info, r = .transportError info) (fault : t.linkFault ≠ .none)
    (ended : Ended m t (sent ++ (opBytes o).take k)) : SendReturns m sent o t r
  | refused (invalid : (bodyRaster o).valid = false) (rest : Rest m t .awake m.tcloses sent) :
    SendReturns m sent o t .invalidFrame

/-- PACK and then TRANSMIT, from a link that is Awake. -/
theorem sendReturns {m : State} {sent : List Byte} {o : BodyOp} {w w' : World} {r : Result}
    (h : sendRaster (bodyRaster o) w = some (r, w')) (hrest : Rest m w.machine .awake m.tcloses sent) :
    SendReturns m sent o w'.machine r := by
  have hpresent : envStep (.present (bodyRaster o)) w.machine = { w.machine with ras := bodyRaster o } :=
    if_pos ⟨hrest.idle, hrest.port⟩
  rw [sendRaster, hpresent] at h
  split at h
  · cases h
  rename_i p w₁ hpack
  obtain ⟨hidle, hpacked⟩ := packReturns hpack hrest.idle hrest.port
  have hrest₁ : Rest m w₁.machine .awake m.tcloses sent :=
    ⟨hidle.idle, hidle.port, hidle.link.trans hrest.link, hidle.tcloses.trans hrest.tcloses,
      hidle.txh.trans hrest.txh, hidle.sched.trans hrest.sched⟩
  obtain ⟨rfl, hvalid, hframe, hread⟩ | ⟨rfl, hinvalid⟩ := hpacked
  · rw [if_pos rfl] at h
    obtain ⟨rfl, hsent⟩ | ⟨herror, hfault, k, hended⟩ :=
      transmitReturns h hrest₁.idle hrest₁.port hrest₁.link hframe hread
    · exact .sent hvalid (hrest₁.txh ▸ hrest₁.tcloses ▸ hrest₁.after hsent)
    · exact .failed k hvalid herror hfault (hrest₁.txh ▸ hended.after hrest₁)
  · rw [if_neg (by decide)] at h
    cases h
    exact .refused hinvalid hrest₁

/-- How a body returns, `sent` being what went out before it: all of it sent; a TRANSMIT failed, after the operations
before it; or a raster refused. -/
inductive BodyReturns (m : State) (sent : List Byte) (body : List BodyOp) (t : State) : Result → Prop
  | sent (valid : ∀ o ∈ body, (bodyRaster o).valid = true)
    (rest : Rest m t .awake m.tcloses (sent ++ body.flatMap opBytes)) : BodyReturns m sent body t .ok
  | failed {r : Result} (before : List BodyOp) (o : BodyOp) (after : List BodyOp) (k : Nat)
    (split : body = before ++ o :: after) (valid : ∀ b ∈ before ++ [o], (bodyRaster b).valid = true)
    (error : r = .frameNotAcknowledged ∨ ∃ info, r = .transportError info) (fault : t.linkFault ≠ .none)
    (ended : Ended m t (sent ++ before.flatMap opBytes ++ (opBytes o).take k)) : BodyReturns m sent body t r
  | refused (before : List BodyOp) (o : BodyOp) (after : List BodyOp) (split : body = before ++ o :: after)
    (valid : ∀ b ∈ before, (bodyRaster b).valid = true) (invalid : (bodyRaster o).valid = false)
    (rest : Rest m t .awake m.tcloses (sent ++ before.flatMap opBytes)) : BodyReturns m sent body t .invalidFrame

/-- An operation whose message went out whole, and then the rest of the body. -/
theorem BodyReturns.cons {m t : State} {sent : List Byte} {o : BodyOp} {body : List BodyOp} {r : Result}
    (hvalid : (bodyRaster o).valid = true) (h : BodyReturns m (sent ++ opBytes o) body t r) :
    BodyReturns m sent (o :: body) t r := by
  have hbytes : ∀ body, sent ++ opBytes o ++ body.flatMap opBytes = sent ++ (o :: body).flatMap opBytes := by
    intro body
    rw [List.flatMap_cons, List.append_assoc]
  cases h with
  | sent valid rest => exact .sent (List.forall_mem_cons.2 ⟨hvalid, valid⟩) (hbytes body ▸ rest)
  | failed before o' after k split valid error fault ended =>
    exact .failed (o :: before) o' after k (congrArg (o :: ·) split) (List.forall_mem_cons.2 ⟨hvalid, valid⟩) error
      fault (hbytes before ▸ ended)
  | refused before o' after split valid invalid rest =>
    exact .refused (o :: before) o' after (congrArg (o :: ·) split) (List.forall_mem_cons.2 ⟨hvalid, valid⟩) invalid
      (hbytes before ▸ rest)

/-- By induction on the operations of the body. -/
theorem bodyReturns {m : State} {sent : List Byte} {body : List BodyOp} {w w' : World} {r : Result}
    (h : runBody body w = some (r, w')) (hrest : Rest m w.machine .awake m.tcloses sent) :
    BodyReturns m sent body w'.machine r := by
  induction body generalizing w sent with
  | nil =>
    cases h
    exact .sent nofun (by rwa [List.flatMap_nil, List.append_nil])
  | cons o rest ih =>
    rw [runBody] at h
    split at h
    · cases h
    rename_i r₁ w₁ hop
    have hsend : sendRaster (bodyRaster o) w = some (r₁, w₁) := by cases o <;> exact hop
    cases sendReturns hsend hrest with
    | sent valid rest =>
      rw [if_pos rfl] at h
      exact .cons valid (ih h rest)
    | failed k valid error fault ended =>
      have hne : r₁ ≠ .ok := by rcases error with rfl | ⟨info, rfl⟩ <;> simp
      rw [if_neg hne] at h
      cases h
      exact .failed [] o rest k rfl (by simpa using valid) error fault (by rwa [List.flatMap_nil, List.append_nil])
    | refused invalid rest =>
      rw [if_neg (by decide)] at h
      cases h
      exact .refused [] o _ rfl nofun invalid (by rwa [List.flatMap_nil, List.append_nil])

/-! ### The session (42_session.md R141, R145, R146) -/

/-- How a session returns: its OPEN failed, with nothing sent; its body went out, and its CLOSE's result is surfaced; a
TRANSMIT failed, and the CLOSE had nothing to do; or a raster was refused, and the link was closed. -/
inductive SessionReturns (m : State) (body : List BodyOp) (t : State) : Result → Prop
  | notOpened (ended : Ended m t m.txh) : SessionReturns m body t .linkInitError
  | sent {r : Result} (k : Nat) (valid : ∀ o ∈ body, (bodyRaster o).valid = true)
    (ended : Ended m t (m.txh ++ body.flatMap opBytes ++ (encodeMessage .sleep).take k))
    (whole : r = .ok → (encodeMessage .sleep).take k = encodeMessage .sleep) : SessionReturns m body t r
  | failed {r : Result} (before : List BodyOp) (o : BodyOp) (after : List BodyOp) (k : Nat)
    (split : body = before ++ o :: after) (valid : ∀ b ∈ before ++ [o], (bodyRaster b).valid = true)
    (error : r = .frameNotAcknowledged ∨ ∃ info, r = .transportError info)
    (rest : Rest m t .closed (m.tcloses + 1) (m.txh ++ before.flatMap opBytes ++ (opBytes o).take k))
    (isClosed : (∀ rx, Turn.env (.attach rx) ∉ m.sched) → t.tOpen = false) : SessionReturns m body t r
  | refused (before : List BodyOp) (o : BodyOp) (after : List BodyOp) (k : Nat)
    (split : body = before ++ o :: after) (valid : ∀ b ∈ before, (bodyRaster b).valid = true)
    (invalid : (bodyRaster o).valid = false)
    (ended : Ended m t (m.txh ++ before.flatMap opBytes ++ (encodeMessage .sleep).take k)) :
    SessionReturns m body t .invalidFrame

/-- A session's CLOSE, from a link that the body has left Awake. -/
theorem closeReturns_after {m : State} {w w' : World} {r : Result} {sent : List Byte}
    (h : issueCommand 0b100#3 w = some (r, w')) (hrest : Rest m w.machine .awake m.tcloses sent) :
    ∃ k, Ended m w'.machine (sent ++ (encodeMessage .sleep).take k)
      ∧ (r = .ok → (encodeMessage .sleep).take k = encodeMessage .sleep) := by
  obtain ⟨k, hended, hwhole⟩ := closeReturns h hrest.idle hrest.port hrest.link
  exact ⟨k, hrest.txh ▸ hended.after hrest, hwhole⟩

/-- A session's CLOSE, after a TRANSMIT of its body that has closed the link. -/
theorem noopCloseReturns_after {m : State} {w w' : World} {r : Result} {sent : List Byte}
    (h : issueCommand 0b100#3 w = some (r, w')) (hended : Ended m w.machine sent)
    (hfault : w.machine.linkFault ≠ .none) :
    Rest m w'.machine .closed (m.tcloses + 1) sent
    ∧ ((∀ rx, Turn.env (.attach rx) ∉ m.sched) → w'.machine.tOpen = false) := by
  obtain ⟨hrest, hclosed⟩ := noopCloseReturns h hended.idle hended.port hended.link hfault
  exact ⟨⟨hrest.idle, hrest.port, hrest.link, hrest.tcloses.trans hended.tcloses, hrest.txh.trans hended.txh,
    hrest.sched.trans hended.sched⟩, fun hattach => hclosed (no_attach_of_suffix hended.sched hattach) hended.isClosed⟩

theorem sessionReturns {rx : List Byte} {body : List BodyOp} {w w' : World} {r : Result}
    (h : session rx body w = some (r, w')) (hidle : w.machine.phase = .idle) (hclosed : w.machine.linkState = .closed)
    (hport : w.machine.port = none) : SessionReturns w.machine body w'.machine r := by
  have hattach : envStep (.attach rx) w.machine = { w.machine with tOpen := true, rxq := rx } :=
    if_pos ⟨hclosed, hidle⟩
  rw [session, hattach] at h
  split at h
  · cases h
  rename_i o w₁ hopen
  obtain ⟨rfl, hrest⟩ | ⟨rfl, hended⟩ := openReturns hopen hidle hport hclosed
  · have hrest₁ : Rest w.machine w₁.machine .awake w.machine.tcloses w.machine.txh := { hrest with }
    rw [if_pos rfl] at h
    split at h
    · cases h
    rename_i b w₂ hbody
    split at h
    · cases h
    rename_i c w₃ hclose
    cases h
    cases bodyReturns hbody hrest₁ with
    | sent valid rest =>
      obtain ⟨k, hended, hwhole⟩ := closeReturns_after hclose rest
      exact .sent k valid hended hwhole
    | failed before o after k split valid error fault ended =>
      obtain ⟨hrest₂, hclosed₂⟩ := noopCloseReturns_after hclose ended fault
      have hne : b ≠ .ok := by rcases error with rfl | ⟨info, rfl⟩ <;> simp
      rw [surface, if_neg hne]
      exact .failed before o after k split valid error hrest₂ hclosed₂
    | refused before o after split valid invalid rest =>
      obtain ⟨k, hended, _⟩ := closeReturns_after hclose rest
      exact .refused before o after k split valid invalid hended
  · rw [if_neg (by decide)] at h
    cases h
    exact .notOpened ⟨{ hended.toRest with }, hended.isClosed⟩

/-- Settles O53: every way a session returns has one close behind it. -/
theorem aSessionClosesExactlyOnce : Obligations.ASessionClosesExactlyOnce := by
  intro rx body w w' r hidle hclosed hport h
  cases sessionReturns h hidle hclosed hport with
  | notOpened ended => exact ⟨ended.tcloses, ended.link, ended.idle, fun _ => ended.isClosed⟩
  | sent _ _ ended _ => exact ⟨ended.tcloses, ended.link, ended.idle, fun _ => ended.isClosed⟩
  | failed _ _ _ _ _ _ _ rest isClosed => exact ⟨rest.tcloses, rest.link, rest.idle, isClosed⟩
  | refused _ _ _ _ _ _ _ ended => exact ⟨ended.tcloses, ended.link, ended.idle, fun _ => ended.isClosed⟩

/-- Settles O54: Ok is surfaced only when the whole body and the whole sleep byte went out. -/
theorem aSuccessfulSessionSendsItsFrames : Obligations.ASuccessfulSessionSendsItsFrames := by
  intro rx body w w' hidle hclosed hport h
  cases sessionReturns h hidle hclosed hport with
  | sent k _ ended whole => exact ended.txh.trans (congrArg (_ ++ ·) (whole rfl))
  | failed _ _ _ _ _ _ error => rcases error with h | ⟨_, h⟩ <;> cases h

/-- A list cut at an operation that fails a test, after operations that pass it, against a cut after operations that
pass it: the same cut, or an earlier one. -/
theorem cut_at_first_failure {p : BodyOp → Bool} {a b c d : List BodyOp} {x y : BodyOp} (h : a ++ x :: b = c ++ y :: d)
    (hx : p x = false) (hc : ∀ z ∈ c, p z = true) : (a = c ∧ x = y) ∨ ∃ e, a = c ++ y :: e := by
  induction c generalizing a with
  | nil =>
    cases a with
    | nil => exact .inl ⟨rfl, (List.cons.inj h).1⟩
    | cons z a => exact .inr ⟨a, congrArg (· :: a) (List.cons.inj h).1⟩
  | cons z c ih =>
    obtain ⟨hz, htest⟩ := List.forall_mem_cons.1 hc
    cases a with
    | nil => exact absurd (hz.symm.trans ((List.cons.inj h).1 ▸ hx)) (by decide)
    | cons z' a =>
      obtain ⟨rfl, htail⟩ := List.cons.inj h
      obtain ⟨rfl, hxy⟩ | ⟨e, rfl⟩ := ih htail htest
      · exact .inl ⟨rfl, hxy⟩
      · exact .inr ⟨e, rfl⟩

/-- Settles O55: the first raster that is not valid is where the body stops, unless a TRANSMIT failed before it. -/
theorem anInvalidRasterIsSurfacedFirst : Obligations.AnInvalidRasterIsSurfacedFirst := by
  intro rx before o body w w' r hidle hclosed hport hbefore ho h
  have valid_ne : ∀ {b : BodyOp}, (bodyRaster b).valid = true → (bodyRaster b).valid = false → False :=
    fun hvalid hinvalid => nomatch hvalid.symm.trans hinvalid
  cases sessionReturns h hidle hclosed hport with
  | notOpened ended => exact .inl ⟨rfl, ended.txh⟩
  | sent k valid => exact (valid_ne (valid o (List.mem_append_right _ List.mem_cons_self)) ho).elim
  | failed sent failed rest k split valid error closed =>
    obtain ⟨hsent, hfailed⟩ := List.forall_mem_append.1 valid
    obtain ⟨_, rfl⟩ | ⟨rest', hcut⟩ := cut_at_first_failure (p := fun b => (bodyRaster b).valid) split ho hsent
    · exact (valid_ne (hfailed _ List.mem_cons_self) ho).elim
    · exact .inr (.inl ⟨sent, failed, rest', k, hcut, error, closed.txh⟩)
  | refused sent bad rest k split valid invalid ended =>
    obtain ⟨rfl, _⟩ | ⟨rest', rfl⟩ := cut_at_first_failure (p := fun b => (bodyRaster b).valid) split ho valid
    · exact .inr (.inr ⟨rfl, k, ended.txh⟩)
    · exact (valid_ne (hbefore bad (List.mem_append_right _ List.mem_cons_self)) invalid).elim

end Sys2Proof.Machine
end

section
/-! SUPPORT. The conforming device at the far end of a quiet link (41_link_protocol.md R135): what it does in each mode,
the rounds of each command, and the session that they make up (42_session.md R149 a). -/

namespace Sys2Proof.Machine

/-! ### What the device does (R135, log entry 23) -/

/-- A byte of the device over an open link with nothing received and unread. -/
theorem envStep_devSend_quiet {s : State} (b : Byte) (ho : s.tOpen = true) (hread : s.rxq = []) :
    envStep (.devSend b) s = { s with rxq := [b] } := by
  rw [envStep, if_pos ho, hread, List.nil_append]

theorem deviceStep_started {d : Device} {s : State} (hmode : d.mode = .started) (ho : s.tOpen = true)
    (hread : s.rxq = []) : deviceStep d s = ({ d with mode := .idle }, { s with rxq := [cfg.byteReady] }) := by
  rw [deviceStep, hmode]
  exact congrArg _ (envStep_devSend_quiet _ ho hread)

/-- With nothing sent that it has not consumed, an idle device keeps still. -/
theorem deviceStep_idle {d : Device} {s : State} (hmode : d.mode = .idle) (hconsumed : d.taken = s.txh.length) :
    deviceStep d s = (d, s) := by
  rw [deviceStep, hmode, hconsumed, List.drop_length]
  rfl

/-- The begin byte makes an idle device count a payload. -/
theorem deviceStep_begin {d : Device} {s : State} (hmode : d.mode = .idle)
    (hnew : s.txh.drop d.taken = [cfg.byteReady]) :
    deviceStep d s = ({ mode := .receiving cfg.frameBytes, taken := d.taken + 1 }, s) := by
  rw [deviceStep, hmode, hnew]
  rfl

/-- The last byte of a payload is acknowledged. -/
theorem deviceStep_payload {d : Device} {s : State} {left : Nat} (hmode : d.mode = .receiving left)
    (hnew : s.txh.length = d.taken + left) (ho : s.tOpen = true) (hread : s.rxq = []) :
    deviceStep d s = ({ mode := .idle, taken := d.taken + left }, { s with rxq := [cfg.byteReady] }) := by
  have hcount : min left (s.txh.length - d.taken) = left := by omega
  rw [deviceStep, hmode]
  dsimp only
  rw [hcount, if_pos (Nat.le_refl left), envStep_devSend_quiet _ ho hread]

/-- The sleep byte is confirmed, and the device is asleep. -/
theorem deviceStep_sleep {d : Device} {s : State} (hmode : d.mode = .idle)
    (hnew : s.txh.drop d.taken = [cfg.byteSleep]) (ho : s.tOpen = true) (hread : s.rxq = []) :
    deviceStep d s = ({ mode := .asleep, taken := d.taken + 1 }, { s with rxq := [cfg.byteSleep] }) := by
  rw [deviceStep, hmode, hnew]
  exact congrArg _ (envStep_devSend_quiet _ ho hread)

/-! ### The rounds of a command -/

/-- A round under a silent environment: an act of the device and then the instruction fetched. -/
theorem round_of_exec {d d' : Device} {s s' t : State} {i : Instr} (hd : deviceStep d s = (d', s'))
    (hsilent : s'.sched = []) (hfetch : fetch s' = .run i) (hexec : exec i s' = .next t) :
    round { machine := s, device := d } = some { machine := t, device := d' } :=
  round_of hd ((step_of_blockTurn (.inl ⟨hsilent, rfl⟩)).trans ((blockStep_of_run hfetch).trans hexec))

/-- A command at PHASE Idle returns once the rounds after it have delivered a result. -/
theorem issueCommand_of_rounds {op : BitVec 3} {s : State} {d : Device} {w' : World} {r : Result}
    (hidle : s.phase = .idle) (hport : s.port = none) (hsilent : s.sched = [])
    (hawait : awaitResult 16 s.results.length { machine := { s with port := some (.cmd op) }, device := d } = some w')
    (hresults : w'.machine.results = s.results ++ [r]) :
    issueCommand op { machine := s, device := d } = some (r, w') :=
  issueCommand_of (m := { s with port := some (.cmd op) }) (if_pos ⟨hidle, hport⟩) hsilent rfl hawait
    (by rw [hresults, List.getLast?_concat])

theorem awaitResult_delivers {fuel : Nat} {s : State} {w w' : World} {r : Result} (h : round w = some w')
    (hresults : w'.machine.results = s.results ++ [r]) : awaitResult (fuel + 1) s.results.length w = some w' :=
  awaitResult_ends h (by rw [hresults, List.length_append]; exact Nat.lt_succ_self _)

theorem awaitResult_waits {fuel : Nat} {s : State} {w w' : World} (h : round w = some w')
    (hresults : w'.machine.results = s.results) :
    awaitResult (fuel + 1) s.results.length w = awaitResult fuel s.results.length w' :=
  awaitResult_goes_on h (by rw [hresults]; exact Nat.lt_irrefl _)

/-- OPEN over a quiet link, the device just reset: its ready byte is there for the read. -/
theorem issue_open_quiet {w : World} (hq : LinkQuiet w) (hclosed : w.machine.linkState = .closed)
    (hmode : w.device.mode = .started) :
    ∃ w', issueCommand 0b010#3 w = some (.ok, w') ∧ LinkQuiet w' ∧ w'.machine.linkState = .awake
      ∧ w'.device.mode = .idle ∧ w'.machine.fb = w.machine.fb ∧ w'.machine.fbValid = w.machine.fbValid
      ∧ w'.machine.txh = w.machine.txh := by
  obtain ⟨s, d⟩ := w
  obtain ⟨hidle, hport, hsilent, hnoFail, hopen, hread, hconsumed⟩ := hq
  have h₁ := round_of_exec (s := { s with port := some (.cmd 0b010#3) }) (deviceStep_started hmode hopen hread) hsilent
    (fetch_idle_cmd hidle rfl) (exec_openLink_closed hidle hclosed)
  have h₂ := round_of_exec (d := { d with mode := .idle })
    (s := { s with port := none, linkFault := .none, phase := .openWait, rxq := [cfg.byteReady] })
    (deviceStep_idle rfl hconsumed) hsilent rfl ((openReadsTheReadyByte _ rfl).1 [] hnoFail hopen rfl)
  exact ⟨_, issueCommand_of_rounds hidle hport hsilent
    ((awaitResult_waits h₁ rfl).trans (awaitResult_delivers (s := s) h₂ rfl)) rfl,
    ⟨rfl, rfl, hsilent, hnoFail, hopen, rfl, hconsumed⟩, rfl, rfl, rfl, rfl, rfl⟩

/-- PACK over a quiet link: one round, in which an idle device keeps still. -/
theorem issue_pack_quiet {w : World} (hq : LinkQuiet w) (hmode : w.device.mode = .idle)
    (hvalid : w.machine.ras.valid = true) :
    ∃ w', issueCommand 0b001#3 w = some (.ok, w') ∧ LinkQuiet w' ∧ w'.machine.linkState = w.machine.linkState
      ∧ w'.device.mode = .idle ∧ w'.machine.fbValid = true
      ∧ memRead w'.machine.fb 0 cfg.frameBytes = some (packFrame w.machine.ras.cell8) := by
  obtain ⟨s, d⟩ := w
  obtain ⟨hidle, hport, hsilent, hnoFail, hopen, hread, hconsumed⟩ := hq
  have h₁ := round_of_exec (s := { s with port := some (.cmd 0b001#3) }) (deviceStep_idle hmode hconsumed) hsilent
    (fetch_idle_cmd hidle rfl) (exec_pack_valid hidle hvalid)
  exact ⟨_, issueCommand_of_rounds hidle hport hsilent (awaitResult_delivers (s := s) h₁ rfl) rfl,
    ⟨hidle, rfl, hsilent, hnoFail, hopen, hread, hconsumed⟩, rfl, hmode, rfl, memRead_writeSegments _ _⟩

/-- TRANSMIT over a quiet link: the device counts the payload and acknowledges its last byte. -/
theorem issue_transmit_quiet {w : World} {frame : List Byte} (hq : LinkQuiet w) (hawake : w.machine.linkState = .awake)
    (hvalid : w.machine.fbValid = true) (hframe : memRead w.machine.fb 0 cfg.frameBytes = some frame)
    (hmode : w.device.mode = .idle) :
    ∃ w', issueCommand 0b011#3 w = some (.ok, w') ∧ LinkQuiet w' ∧ w'.machine.linkState = .awake
      ∧ w'.device.mode = .idle ∧ w'.machine.fb = w.machine.fb ∧ w'.machine.fbValid = true
      ∧ w'.machine.txh = w.machine.txh ++ encodeMessage (.frame frame) := by
  obtain ⟨s, d⟩ := w
  obtain ⟨hidle, hport, hsilent, hnoFail, hopen, hread, (hconsumed : d.taken = s.txh.length)⟩ := hq
  have hlength := memRead_length hframe
  have hbegin : (s.txh ++ [cfg.byteReady]).drop d.taken = [cfg.byteReady] := List.drop_left' hconsumed.symm
  have hwhole : (s.txh ++ encodeMessage (.frame frame)).length = d.taken + 1 + cfg.frameBytes := by
    rw [List.length_append, ← hconsumed, encodeMessage, List.length_cons, hlength]
    omega
  have hmessage : s.txh ++ [cfg.byteReady] ++ frame = s.txh ++ encodeMessage (.frame frame) := by
    rw [List.append_assoc, List.singleton_append, encodeMessage]
  have h₁ := round_of_exec (s := { s with port := some (.cmd 0b011#3) }) (deviceStep_idle hmode hconsumed) hsilent
    (fetch_idle_cmd hidle rfl) (exec_transmit_accepted hidle hawake hvalid)
  have h₂ := round_of_exec (s := { s with port := none, linkState := .transmitting, phase := .txCmd })
    (deviceStep_idle hmode hconsumed) hsilent rfl ((transmitWritesTheBeginByte _ rfl).1 hnoFail hopen)
  have h₃ := round_of_exec
    (s := { s with
      port := none, linkState := .transmitting, phase := .txData, txh := s.txh ++ [cfg.byteReady] })
    (deviceStep_begin hmode hbegin) hsilent (fetch_txData rfl hframe)
    ((transmitWritesTheFrameBuffer.2 _ frame rfl hlength).1 hnoFail hopen)
  have h₄ := round_of_exec (d := { mode := .receiving cfg.frameBytes, taken := d.taken + 1 })
    (s := { s with
      port := none, linkState := .transmitting, phase := .txAck, txh := s.txh ++ encodeMessage (.frame frame) })
    (deviceStep_payload rfl hwhole hopen hread) hsilent rfl
    ((transmitReadsTheAcknowledgment _ rfl).1 [] hnoFail hopen rfl)
  rw [hmessage] at h₃
  exact ⟨_, issueCommand_of_rounds hidle hport hsilent
    ((awaitResult_waits h₁ rfl).trans ((awaitResult_waits (s := s) h₂ rfl).trans
      ((awaitResult_waits (s := s) h₃ rfl).trans (awaitResult_delivers (s := s) h₄ rfl)))) rfl,
    ⟨rfl, rfl, hsilent, hnoFail, hopen, rfl, hwhole.symm⟩, rfl, rfl, rfl, hvalid, rfl⟩

/-- CLOSE over a quiet link: the device confirms the sleep byte and is asleep. -/
theorem issue_close_quiet {w : World} (hq : LinkQuiet w) (hawake : w.machine.linkState = .awake)
    (hmode : w.device.mode = .idle) :
    ∃ w', issueCommand 0b100#3 w = some (.ok, w') ∧ w'.machine.linkState = .closed ∧ w'.device.mode = .asleep
      ∧ w'.machine.linkFault = .none ∧ w'.machine.phase = .idle ∧ w'.machine.port = none ∧ w'.machine.sched = []
      ∧ w'.machine.failNext = none ∧ w'.machine.tOpen = false ∧ w'.machine.tcloses = w.machine.tcloses + 1
      ∧ w'.machine.rxq = [] ∧ w'.device.taken = w'.machine.txh.length
      ∧ w'.machine.txh = w.machine.txh ++ encodeMessage .sleep := by
  obtain ⟨s, d⟩ := w
  obtain ⟨hidle, hport, hsilent, hnoFail, hopen, hread, (hconsumed : d.taken = s.txh.length)⟩ := hq
  have hsleep : (s.txh ++ [cfg.byteSleep]).drop d.taken = [cfg.byteSleep] := List.drop_left' hconsumed.symm
  have hwhole : d.taken + 1 = (s.txh ++ [cfg.byteSleep]).length := by rw [List.length_append, ← hconsumed]; rfl
  have h₁ := round_of_exec (s := { s with port := some (.cmd 0b100#3) }) (deviceStep_idle hmode hconsumed) hsilent
    (fetch_idle_cmd hidle rfl) (exec_closeLink_awake hidle hawake)
  have h₂ := round_of_exec (s := { s with port := none, phase := .clCmd })
    (deviceStep_idle hmode hconsumed) hsilent rfl ((closeWritesTheSleepByte _ rfl).1 hnoFail hopen)
  have h₃ := round_of_exec (s := { s with port := none, phase := .clAck, txh := s.txh ++ [cfg.byteSleep] })
    (deviceStep_sleep hmode hsleep hopen hread) hsilent rfl
    ((closeFinishesWithTheTransportClosed _ rfl).1 [] hnoFail hopen rfl)
  exact ⟨_, issueCommand_of_rounds hidle hport hsilent
    ((awaitResult_waits h₁ rfl).trans ((awaitResult_waits (s := s) h₂ rfl).trans
      (awaitResult_delivers (s := s) h₃ rfl))) rfl,
    rfl, rfl, rfl, rfl, rfl, hsilent, hnoFail, rfl, rfl, rfl, hwhole, rfl⟩

/-- Settles O51: the rounds of OPEN, TRANSMIT and CLOSE over a quiet link. -/
theorem conformingDeviceMakesCommandsSucceed : Obligations.ConformingDeviceMakesCommandsSucceed :=
  fun _ hq => ⟨issue_open_quiet hq, fun _ => issue_transmit_quiet hq, issue_close_quiet hq⟩

/-! ### The session (42_session.md R147, R149 a) -/

/-- A valid raster is packed and sent. -/
theorem send_quiet {w : World} {ras : Raster} (hq : LinkQuiet w) (hawake : w.machine.linkState = .awake)
    (hmode : w.device.mode = .idle) (hvalid : ras.valid = true) :
    ∃ w', sendRaster ras w = some (.ok, w') ∧ LinkQuiet w' ∧ w'.machine.linkState = .awake
      ∧ w'.device.mode = .idle := by
  have hpresent : envStep (.present ras) w.machine = { w.machine with ras := ras } := if_pos ⟨hq.idle, hq.port⟩
  have hq₀ : LinkQuiet { w with machine := { w.machine with ras := ras } } := { hq with }
  obtain ⟨w₁, hpack, hq₁, hlink₁, hmode₁, hvalid₁, hframe⟩ := issue_pack_quiet hq₀ hmode hvalid
  obtain ⟨w₂, hsend, hq₂, hawake₂, hmode₂, _⟩ :=
    issue_transmit_quiet hq₁ (hlink₁.trans hawake) hvalid₁ hframe hmode₁
  refine ⟨w₂, ?_, hq₂, hawake₂, hmode₂⟩
  rw [sendRaster, hpresent, hpack]
  exact (if_pos rfl).trans hsend

/-- By induction on the operations of the body. -/
theorem runBody_quiet {body : List BodyOp} {w : World} (hq : LinkQuiet w) (hawake : w.machine.linkState = .awake)
    (hmode : w.device.mode = .idle) (hvalid : ∀ o ∈ body, (bodyRaster o).valid = true) :
    ∃ w', runBody body w = some (.ok, w') ∧ LinkQuiet w' ∧ w'.machine.linkState = .awake
      ∧ w'.device.mode = .idle := by
  induction body generalizing w with
  | nil => exact ⟨w, rfl, hq, hawake, hmode⟩
  | cons o rest ih =>
    obtain ⟨ho, hrest⟩ := List.forall_mem_cons.1 hvalid
    obtain ⟨w₁, hsend, hq₁, hawake₁, hmode₁⟩ := send_quiet hq hawake hmode ho
    obtain ⟨w₂, hbody, hquiet⟩ := ih hq₁ hawake₁ hmode₁ hrest
    have hop : runBodyOp o w = some (.ok, w₁) := by cases o <;> exact hsend
    refine ⟨w₂, ?_, hquiet⟩
    rw [runBody, hop]
    exact (if_pos rfl).trans hbody

/-- Settles O52: OPEN, the body and CLOSE over the quiet link that the attachment leaves; that the transport is closed
once is `aSessionClosesExactlyOnce`. -/
theorem aConformingSessionSucceeds : Obligations.AConformingSessionSucceeds := by
  intro body w hidle hclosed hport hsilent hnoFail hmode hconsumed hvalid
  have hattach : envStep (.attach []) w.machine = { w.machine with tOpen := true, rxq := [] } :=
    if_pos ⟨hclosed, hidle⟩
  have hq : LinkQuiet { w with machine := envStep (.attach []) w.machine } := by
    rw [hattach]
    exact ⟨hidle, hport, hsilent, hnoFail, rfl, rfl, hconsumed⟩
  have hclosed₀ : (envStep (.attach []) w.machine).linkState = .closed := by rw [hattach]; exact hclosed
  obtain ⟨w₁, hopen, hq₁, hawake₁, hmode₁, _⟩ := issue_open_quiet hq hclosed₀ hmode
  obtain ⟨w₂, hbody, hq₂, hawake₂, hmode₂⟩ := runBody_quiet hq₁ hawake₁ hmode₁ hvalid
  obtain ⟨w₃, hclose, hlink, hasleep, hfault, _, _, _, _, htOpen, _⟩ := issue_close_quiet hq₂ hawake₂ hmode₂
  have hsession : session [] body w = some (.ok, w₃) := by
    simp only [session, hopen, hbody, hclose, surface, if_true]
  have honce := (aSessionClosesExactlyOnce [] body w w₃ .ok hidle hclosed hport hsession).1
  exact ⟨w₃, hsession, hasleep, htOpen, honce, hlink, hfault⟩

end Sys2Proof.Machine
end
